-- ==== Sys2Proof/Word.lean ====
section
/-! DEFINITION. The widths of the MulDiv128 core (00_scope.md R7, R8, R10): 128-bit values, 64-bit
limbs, 32-bit digits, 32-bit command words, 4-bit register numbers, 6-bit port addresses. -/

namespace Sys2Proof

/-- A 128-bit value pattern, as a value register holds it (00_scope.md R7, R10). -/
abbrev Word := BitVec 128

/-- A 64-bit limb: half of a value, and the data of one port transaction (00_scope.md R7, R8). -/
abbrev Limb := BitVec 64

/-- A 32-bit command word (00_scope.md R8, 30_encoding.md R60). -/
abbrev Cmd := BitVec 32

/-- The number of a value register, a plain 4-bit index (10_state.md R21, 30_encoding.md R61). -/
abbrev Reg := BitVec 4

/-- An address of the host port (20_memory.md R41). -/
abbrev PortAddr := BitVec 6

end Sys2Proof
end

