-- ==== Sys2Proof/Syntax.lean ====
section
/-! DEFINITION. The commands of the MulDiv128 core as terms: one constructor of `Instr` per row of
spec/opcode_table.json (30_encoding.md R70), its operands in the order of the assembler syntax
(R74). Register numbers are plain 4-bit indices, all legal (R61); the two immediates are the 8-bit
constant selector of `LDC` and the 7-bit shift amount (R69). -/

namespace Sys2Proof

/-- A command of the core: 72 rows of the opcode map (30_encoding.md R70). -/
inductive Instr where
  /-- `NOP` (format N, R76). -/
  | nop
  /-- `LDC` (format K, R92). -/
  | ldc (rd : Reg) (k : BitVec 8)
  /-- `MOV` (format R1, R93). -/
  | mov (rd rs1 : Reg)
  /-- `ZEXT8` (format R1, R94). -/
  | zext8 (rd rs1 : Reg)
  /-- `ZEXT16` (format R1, R95). -/
  | zext16 (rd rs1 : Reg)
  /-- `ZEXT32` (format R1, R96). -/
  | zext32 (rd rs1 : Reg)
  /-- `ZEXT64` (format R1, R97). -/
  | zext64 (rd rs1 : Reg)
  /-- `SEXT8` (format R1, R98). -/
  | sext8 (rd rs1 : Reg)
  /-- `SEXT16` (format R1, R99). -/
  | sext16 (rd rs1 : Reg)
  /-- `SEXT32` (format R1, R100). -/
  | sext32 (rd rs1 : Reg)
  /-- `SEXT64` (format R1, R101). -/
  | sext64 (rd rs1 : Reg)
  /-- `CVT.U.F64` (format R1, R107). -/
  | cvtUF64 (rd rs1 : Reg)
  /-- `CVT.F64.U` (format R1, R106). -/
  | cvtF64U (rd rs1 : Reg)
  /-- `CVT.S.F64` (format R1, R109). -/
  | cvtSF64 (rd rs1 : Reg)
  /-- `CVT.F64.S` (format R1, R108). -/
  | cvtF64S (rd rs1 : Reg)
  /-- `AND` (format R2, R120). -/
  | and (rd rs1 rs2 : Reg)
  /-- `OR` (format R2, R121). -/
  | or (rd rs1 rs2 : Reg)
  /-- `XOR` (format R2, R122). -/
  | xor (rd rs1 rs2 : Reg)
  /-- `NOT` (format R1, R123). -/
  | not (rd rs1 : Reg)
  /-- `SHL` (format R2, R126). -/
  | shl (rd rs1 rs2 : Reg)
  /-- `SHR` (format R2, R127). -/
  | shr (rd rs1 rs2 : Reg)
  /-- `SAR` (format R2, R128). -/
  | sar (rd rs1 rs2 : Reg)
  /-- `SHLI` (format RI, R132). -/
  | shli (rd rs1 : Reg) (shamt : BitVec 7)
  /-- `SHRI` (format RI, R133). -/
  | shri (rd rs1 : Reg) (shamt : BitVec 7)
  /-- `SARI` (format RI, R134). -/
  | sari (rd rs1 : Reg) (shamt : BitVec 7)
  /-- `EQ` (format R2, R141). -/
  | eq (rd rs1 rs2 : Reg)
  /-- `NE` (format R2, R142). -/
  | ne (rd rs1 rs2 : Reg)
  /-- `U.LT` (format R2, R143). -/
  | uLt (rd rs1 rs2 : Reg)
  /-- `U.LE` (format R2, R144). -/
  | uLe (rd rs1 rs2 : Reg)
  /-- `U.GT` (format R2, R145). -/
  | uGt (rd rs1 rs2 : Reg)
  /-- `U.GE` (format R2, R146). -/
  | uGe (rd rs1 rs2 : Reg)
  /-- `U.CMP` (format R2, R147). -/
  | uCmp (rd rs1 rs2 : Reg)
  /-- `U.MIN` (format R2, R148). -/
  | uMin (rd rs1 rs2 : Reg)
  /-- `U.MAX` (format R2, R149). -/
  | uMax (rd rs1 rs2 : Reg)
  /-- `S.LT` (format R2, R292). -/
  | sLt (rd rs1 rs2 : Reg)
  /-- `S.LE` (format R2, R293). -/
  | sLe (rd rs1 rs2 : Reg)
  /-- `S.GT` (format R2, R294). -/
  | sGt (rd rs1 rs2 : Reg)
  /-- `S.GE` (format R2, R295). -/
  | sGe (rd rs1 rs2 : Reg)
  /-- `S.CMP` (format R2, R296). -/
  | sCmp (rd rs1 rs2 : Reg)
  /-- `S.MIN` (format R2, R297). -/
  | sMin (rd rs1 rs2 : Reg)
  /-- `S.MAX` (format R2, R298). -/
  | sMax (rd rs1 rs2 : Reg)
  /-- `ADD` (format R2, R160). -/
  | add (rd rs1 rs2 : Reg)
  /-- `SUB` (format R2, R161). -/
  | sub (rd rs1 rs2 : Reg)
  /-- `NEG` (format R1, R162). -/
  | neg (rd rs1 : Reg)
  /-- `INC` (format R1, R163). -/
  | inc (rd rs1 : Reg)
  /-- `DEC` (format R1, R164). -/
  | dec (rd rs1 : Reg)
  /-- `MUL` (format R2, R180). -/
  | mul (rd rs1 rs2 : Reg)
  /-- `MUL64` (format R2, R181). -/
  | mul64 (rd rs1 rs2 : Reg)
  /-- `SQR` (format R1, R182). -/
  | sqr (rd rs1 : Reg)
  /-- `CUBE` (format R1, R183). -/
  | cube (rd rs1 : Reg)
  /-- `POW` (format R2, R184). -/
  | pow (rd rs1 rs2 : Reg)
  /-- `U.DIV` (format R2, R210). -/
  | uDiv (rd rs1 rs2 : Reg)
  /-- `U.REM` (format R2, R211). -/
  | uRem (rd rs1 rs2 : Reg)
  /-- `U.DIVREM` (format R2D, R212). -/
  | uDivRem (rd rd2 rs1 rs2 : Reg)
  /-- `S.MUL` (format R2, R300). -/
  | sMul (rd rs1 rs2 : Reg)
  /-- `S.DIV` (format R2, R301). -/
  | sDiv (rd rs1 rs2 : Reg)
  /-- `S.REM` (format R2, R302). -/
  | sRem (rd rs1 rs2 : Reg)
  /-- `S.DIVREM` (format R2D, R303). -/
  | sDivRem (rd rd2 rs1 rs2 : Reg)
  /-- `S.ABS` (format R1, R304). -/
  | sAbs (rd rs1 : Reg)
  /-- `S.FSQRT` (format R1, R340). -/
  | sFsqrt (rd rs1 : Reg)
  /-- `S.CSQRT` (format R1, R341). -/
  | sCsqrt (rd rs1 : Reg)
  /-- `S.FCBRT` (format R1, R342). -/
  | sFcbrt (rd rs1 : Reg)
  /-- `S.CCBRT` (format R1, R343). -/
  | sCcbrt (rd rs1 : Reg)
  /-- `U.GCD` (format R2, R240). -/
  | uGcd (rd rs1 rs2 : Reg)
  /-- `U.MODADD` (format R3, R260). -/
  | uModAdd (rd rs1 rs2 rs3 : Reg)
  /-- `U.MODSUB` (format R3, R261). -/
  | uModSub (rd rs1 rs2 rs3 : Reg)
  /-- `U.MODMUL` (format R3, R262). -/
  | uModMul (rd rs1 rs2 rs3 : Reg)
  /-- `U.MODPOW` (format R3, R263). -/
  | uModPow (rd rs1 rs2 rs3 : Reg)
  /-- `U.FSQRT` (format R1, R330). -/
  | uFsqrt (rd rs1 : Reg)
  /-- `U.CSQRT` (format R1, R331). -/
  | uCsqrt (rd rs1 : Reg)
  /-- `U.FCBRT` (format R1, R332). -/
  | uFcbrt (rd rs1 : Reg)
  /-- `U.CCBRT` (format R1, R333). -/
  | uCcbrt (rd rs1 : Reg)
deriving DecidableEq, Repr

end Sys2Proof
end

