-- ==== Sys2Proof/WellFormed.lean ====
section
/-! DEFINITION. Which commands have an encoding: the two checks of 30_encoding.md R71 that the types
of the operands do not already make (R71 c: the constant selector of `LDC` is at most 4; R71 d: the
two destinations of a `DIVREM` differ). -/

namespace Sys2Proof

/-- The command is one that some legal word decodes to (30_encoding.md R69, R68, R71). -/
def wellFormed : Instr → Bool
  | .nop => true
  | .ldc _ k => decide (k.toNat ≤ 4)
  | .mov _ _ => true
  | .zext8 _ _ => true
  | .zext16 _ _ => true
  | .zext32 _ _ => true
  | .zext64 _ _ => true
  | .sext8 _ _ => true
  | .sext16 _ _ => true
  | .sext32 _ _ => true
  | .sext64 _ _ => true
  | .cvtUF64 _ _ => true
  | .cvtF64U _ _ => true
  | .cvtSF64 _ _ => true
  | .cvtF64S _ _ => true
  | .and _ _ _ => true
  | .or _ _ _ => true
  | .xor _ _ _ => true
  | .not _ _ => true
  | .shl _ _ _ => true
  | .shr _ _ _ => true
  | .sar _ _ _ => true
  | .shli _ _ _ => true
  | .shri _ _ _ => true
  | .sari _ _ _ => true
  | .eq _ _ _ => true
  | .ne _ _ _ => true
  | .uLt _ _ _ => true
  | .uLe _ _ _ => true
  | .uGt _ _ _ => true
  | .uGe _ _ _ => true
  | .uCmp _ _ _ => true
  | .uMin _ _ _ => true
  | .uMax _ _ _ => true
  | .sLt _ _ _ => true
  | .sLe _ _ _ => true
  | .sGt _ _ _ => true
  | .sGe _ _ _ => true
  | .sCmp _ _ _ => true
  | .sMin _ _ _ => true
  | .sMax _ _ _ => true
  | .add _ _ _ => true
  | .sub _ _ _ => true
  | .neg _ _ => true
  | .inc _ _ => true
  | .dec _ _ => true
  | .mul _ _ _ => true
  | .mul64 _ _ _ => true
  | .sqr _ _ => true
  | .cube _ _ => true
  | .pow _ _ _ => true
  | .uDiv _ _ _ => true
  | .uRem _ _ _ => true
  | .uDivRem rd rd2 _ _ => decide (rd ≠ rd2)
  | .sMul _ _ _ => true
  | .sDiv _ _ _ => true
  | .sRem _ _ _ => true
  | .sDivRem rd rd2 _ _ => decide (rd ≠ rd2)
  | .sAbs _ _ => true
  | .sFsqrt _ _ => true
  | .sCsqrt _ _ => true
  | .sFcbrt _ _ => true
  | .sCcbrt _ _ => true
  | .uGcd _ _ _ => true
  | .uModAdd _ _ _ _ => true
  | .uModSub _ _ _ _ => true
  | .uModMul _ _ _ _ => true
  | .uModPow _ _ _ _ => true
  | .uFsqrt _ _ => true
  | .uCsqrt _ _ => true
  | .uFcbrt _ _ => true
  | .uCcbrt _ _ => true

end Sys2Proof
end

