-- ==== Sys2Proof/Decode.lean ====
section
/-! DEFINITION. The command word: its fields, the decoder, and the encoder (30_encoding.md R60 to
R72). The decoder is total on 32-bit words and on 64-bit `CMD` data and rejects by name. A command
word is the number `data[31:0]` of the `CMD` write: no byte order exists below the limb (20_memory.md
R47). -/

namespace Sys2Proof

/-- Why a word is no command (30_encoding.md R71; the last case 20_memory.md R44). Every one of them
is the fault IllegalCommand on the hardware; the names only tell the cases apart. -/
inductive DecodeError where
  /-- R71 (a): the low byte is not one of the 72 opcodes. -/
  | unknownOpcode (op : BitVec 8)
  /-- R71 (b): a bit that the opcode's format requires to be zero is one. -/
  | unusedFieldSet (op : BitVec 8)
  /-- R71 (c): `LDC` with a selector of 5 or more. -/
  | badConstant (k : BitVec 8)
  /-- R71 (d): a `DIVREM` whose two destinations are one register. -/
  | sameDestinations (rd : Reg)
  /-- R44: the upper half of the `CMD` write data is not zero. -/
  | upperHalfSet (hi : BitVec 32)
deriving DecidableEq, Repr

/-! The fields of a command word, at the same places in every format (30_encoding.md R61). -/

/-- Bits 7:0. -/
def opcodeField (c : Cmd) : BitVec 8 := c.extractLsb' 0 8

/-- Bits 11:8. -/
def rdField (c : Cmd) : Reg := c.extractLsb' 8 4

/-- Bits 15:12. -/
def rs1Field (c : Cmd) : Reg := c.extractLsb' 12 4

/-- Bits 19:16. -/
def rs2Field (c : Cmd) : Reg := c.extractLsb' 16 4

/-- Bits 23:20: the third source of format R3, the second destination of format R2D. -/
def rs3Field (c : Cmd) : Reg := c.extractLsb' 20 4

/-- Bits 31:24. -/
def imm8Field (c : Cmd) : BitVec 8 := c.extractLsb' 24 8

/-- Bits 30:24, the shift amount of format RI (R67, R69). -/
def shamtField (c : Cmd) : BitVec 7 := c.extractLsb' 24 7

/-- Accept `i` when the bits its format leaves unused are zero (30_encoding.md R71 b). -/
def whenUnusedZero (c : Cmd) (unusedZero : Bool) (i : Instr) : Except DecodeError Instr :=
  if unusedZero then .ok i else .error (.unusedFieldSet (opcodeField c))

/-- Format N: `c[31:8]` must be 0 (30_encoding.md R62). -/
def decodeN (c : Cmd) (mk : Instr) : Except DecodeError Instr :=
  whenUnusedZero c (c.extractLsb' 8 24 == 0) mk

/-- Format K: `c[23:12]` must be 0, and the selector is at most 4 (30_encoding.md R63, R69). -/
def decodeK (c : Cmd) (mk : Reg → BitVec 8 → Instr) : Except DecodeError Instr :=
  if (imm8Field c).toNat ≤ 4 then
    whenUnusedZero c (c.extractLsb' 12 12 == 0) (mk (rdField c) (imm8Field c))
  else .error (.badConstant (imm8Field c))

/-- Format R1: `c[31:16]` must be 0 (30_encoding.md R64). -/
def decodeR1 (c : Cmd) (mk : Reg → Reg → Instr) : Except DecodeError Instr :=
  whenUnusedZero c (c.extractLsb' 16 16 == 0) (mk (rdField c) (rs1Field c))

/-- Format R2: `c[31:20]` must be 0 (30_encoding.md R65). -/
def decodeR2 (c : Cmd) (mk : Reg → Reg → Reg → Instr) : Except DecodeError Instr :=
  whenUnusedZero c (c.extractLsb' 20 12 == 0) (mk (rdField c) (rs1Field c) (rs2Field c))

/-- Format R3: `c[31:24]` must be 0 (30_encoding.md R66). -/
def decodeR3 (c : Cmd) (mk : Reg → Reg → Reg → Reg → Instr) : Except DecodeError Instr :=
  whenUnusedZero c (imm8Field c == 0) (mk (rdField c) (rs1Field c) (rs2Field c) (rs3Field c))

/-- Format RI: `c[23:16]` and `c[31]` must be 0 (30_encoding.md R67). -/
def decodeRI (c : Cmd) (mk : Reg → Reg → BitVec 7 → Instr) : Except DecodeError Instr :=
  whenUnusedZero c (c.extractLsb' 16 8 == 0 && c.extractLsb' 31 1 == 0)
    (mk (rdField c) (rs1Field c) (shamtField c))

/-- Format R2D: `c[31:24]` must be 0 and `rd ≠ rd2` (30_encoding.md R68). The operands are given to
`mk` in the order `rd, rd2, rs1, rs2` of the assembler syntax (R74). -/
def decodeR2D (c : Cmd) (mk : Reg → Reg → Reg → Reg → Instr) : Except DecodeError Instr :=
  if rdField c = rs3Field c then .error (.sameDestinations (rdField c))
  else whenUnusedZero c (imm8Field c == 0) (mk (rdField c) (rs3Field c) (rs1Field c) (rs2Field c))

/-- The decoder of 30_encoding.md R60 step 1: total on every 32-bit word. It looks up the opcode in
the map of R70, then makes the checks of the opcode's format (R62 to R68); every word that is not one
of the 72 commands is rejected with the reason of R71. -/
def decode (c : Cmd) : Except DecodeError Instr :=
  match (opcodeField c).toNat with
  | 0x00 => decodeN c .nop
  | 0x10 => decodeK c .ldc
  | 0x11 => decodeR1 c .mov
  | 0x12 => decodeR1 c .zext8
  | 0x13 => decodeR1 c .zext16
  | 0x14 => decodeR1 c .zext32
  | 0x15 => decodeR1 c .zext64
  | 0x16 => decodeR1 c .sext8
  | 0x17 => decodeR1 c .sext16
  | 0x18 => decodeR1 c .sext32
  | 0x19 => decodeR1 c .sext64
  | 0x1A => decodeR1 c .cvtUF64
  | 0x1B => decodeR1 c .cvtF64U
  | 0x1C => decodeR1 c .cvtSF64
  | 0x1D => decodeR1 c .cvtF64S
  | 0x20 => decodeR2 c .and
  | 0x21 => decodeR2 c .or
  | 0x22 => decodeR2 c .xor
  | 0x23 => decodeR1 c .not
  | 0x24 => decodeR2 c .shl
  | 0x25 => decodeR2 c .shr
  | 0x26 => decodeR2 c .sar
  | 0x27 => decodeRI c .shli
  | 0x28 => decodeRI c .shri
  | 0x29 => decodeRI c .sari
  | 0x30 => decodeR2 c .eq
  | 0x31 => decodeR2 c .ne
  | 0x32 => decodeR2 c .uLt
  | 0x33 => decodeR2 c .uLe
  | 0x34 => decodeR2 c .uGt
  | 0x35 => decodeR2 c .uGe
  | 0x36 => decodeR2 c .uCmp
  | 0x37 => decodeR2 c .uMin
  | 0x38 => decodeR2 c .uMax
  | 0x39 => decodeR2 c .sLt
  | 0x3A => decodeR2 c .sLe
  | 0x3B => decodeR2 c .sGt
  | 0x3C => decodeR2 c .sGe
  | 0x3D => decodeR2 c .sCmp
  | 0x3E => decodeR2 c .sMin
  | 0x3F => decodeR2 c .sMax
  | 0x40 => decodeR2 c .add
  | 0x41 => decodeR2 c .sub
  | 0x42 => decodeR1 c .neg
  | 0x43 => decodeR1 c .inc
  | 0x44 => decodeR1 c .dec
  | 0x50 => decodeR2 c .mul
  | 0x51 => decodeR2 c .mul64
  | 0x52 => decodeR1 c .sqr
  | 0x53 => decodeR1 c .cube
  | 0x54 => decodeR2 c .pow
  | 0x60 => decodeR2 c .uDiv
  | 0x61 => decodeR2 c .uRem
  | 0x62 => decodeR2D c .uDivRem
  | 0x70 => decodeR2 c .sMul
  | 0x71 => decodeR2 c .sDiv
  | 0x72 => decodeR2 c .sRem
  | 0x73 => decodeR2D c .sDivRem
  | 0x74 => decodeR1 c .sAbs
  | 0x78 => decodeR1 c .sFsqrt
  | 0x79 => decodeR1 c .sCsqrt
  | 0x7A => decodeR1 c .sFcbrt
  | 0x7B => decodeR1 c .sCcbrt
  | 0x80 => decodeR2 c .uGcd
  | 0x90 => decodeR3 c .uModAdd
  | 0x91 => decodeR3 c .uModSub
  | 0x92 => decodeR3 c .uModMul
  | 0x93 => decodeR3 c .uModPow
  | 0xA0 => decodeR1 c .uFsqrt
  | 0xA1 => decodeR1 c .uCsqrt
  | 0xA2 => decodeR1 c .uFcbrt
  | 0xA3 => decodeR1 c .uCcbrt
  | _ => .error (.unknownOpcode (opcodeField c))

/-- The decoding of the 64-bit data of a `CMD` write: the upper half is checked first, then the word
`data[31:0]` is decoded (20_memory.md R44, 60_exceptions.md R365). -/
def decodeData (d : Limb) : Except DecodeError Instr :=
  if d.extractLsb' 32 32 = 0 then decode (d.extractLsb' 0 32)
  else .error (.upperHalfSet (d.extractLsb' 32 32))

/-- The command the decoder reads from an opcode-table word of `nbits` bits, given to it as the data
of a `CMD` write (a later half of the data, when `nbits` exceeds 32, lies in bits 63:32); `none`
where the decoder rejects it. -/
def decodeTableWord (nbits w : Nat) : Option Instr :=
  match decodeData (BitVec.ofNat 64 (w % 2 ^ nbits)) with
  | .ok i => some i
  | .error _ => none

/-- A command word from its six fields: `opcode | rd<<8 | rs1<<12 | rs2<<16 | rs3<<20 | imm8<<24`
(30_encoding.md R61, 41_bitwise_shift_compare.md preamble). -/
def packFields (imm8 : BitVec 8) (rs3 rs2 rs1 rd : Reg) (op : BitVec 8) : Cmd :=
  op.zeroExtend 32 ||| rd.zeroExtend 32 <<< 8 ||| rs1.zeroExtend 32 <<< 12
    ||| rs2.zeroExtend 32 <<< 16 ||| rs3.zeroExtend 32 <<< 20 ||| imm8.zeroExtend 32 <<< 24

/-- A format N word (30_encoding.md R62). -/
def encodeN (op : BitVec 8) : Cmd := packFields 0 0 0 0 0 op

/-- A format K word (30_encoding.md R63). -/
def encodeK (op : BitVec 8) (rd : Reg) (k : BitVec 8) : Cmd := packFields k 0 0 0 rd op

/-- A format R1 word (30_encoding.md R64). -/
def encodeR1 (op : BitVec 8) (rd rs1 : Reg) : Cmd := packFields 0 0 0 rs1 rd op

/-- A format R2 word (30_encoding.md R65). -/
def encodeR2 (op : BitVec 8) (rd rs1 rs2 : Reg) : Cmd := packFields 0 0 rs2 rs1 rd op

/-- A format R3 word (30_encoding.md R66). -/
def encodeR3 (op : BitVec 8) (rd rs1 rs2 rs3 : Reg) : Cmd := packFields 0 rs3 rs2 rs1 rd op

/-- A format RI word: `c[31]` is 0 and the shift amount is `c[30:24]` (30_encoding.md R67). -/
def encodeRI (op : BitVec 8) (rd rs1 : Reg) (shamt : BitVec 7) : Cmd :=
  packFields (shamt.zeroExtend 8) 0 0 rs1 rd op

/-- A format R2D word: `rd2` is `c[23:20]` (30_encoding.md R68). -/
def encodeR2D (op : BitVec 8) (rd rd2 rs1 rs2 : Reg) : Cmd := packFields 0 rd2 rs2 rs1 rd op

/-- The opcode number of a command (the map of 30_encoding.md R70). -/
def opcode : Instr → BitVec 8
  | .nop => 0x00
  | .ldc .. => 0x10
  | .mov .. => 0x11
  | .zext8 .. => 0x12
  | .zext16 .. => 0x13
  | .zext32 .. => 0x14
  | .zext64 .. => 0x15
  | .sext8 .. => 0x16
  | .sext16 .. => 0x17
  | .sext32 .. => 0x18
  | .sext64 .. => 0x19
  | .cvtUF64 .. => 0x1A
  | .cvtF64U .. => 0x1B
  | .cvtSF64 .. => 0x1C
  | .cvtF64S .. => 0x1D
  | .and .. => 0x20
  | .or .. => 0x21
  | .xor .. => 0x22
  | .not .. => 0x23
  | .shl .. => 0x24
  | .shr .. => 0x25
  | .sar .. => 0x26
  | .shli .. => 0x27
  | .shri .. => 0x28
  | .sari .. => 0x29
  | .eq .. => 0x30
  | .ne .. => 0x31
  | .uLt .. => 0x32
  | .uLe .. => 0x33
  | .uGt .. => 0x34
  | .uGe .. => 0x35
  | .uCmp .. => 0x36
  | .uMin .. => 0x37
  | .uMax .. => 0x38
  | .sLt .. => 0x39
  | .sLe .. => 0x3A
  | .sGt .. => 0x3B
  | .sGe .. => 0x3C
  | .sCmp .. => 0x3D
  | .sMin .. => 0x3E
  | .sMax .. => 0x3F
  | .add .. => 0x40
  | .sub .. => 0x41
  | .neg .. => 0x42
  | .inc .. => 0x43
  | .dec .. => 0x44
  | .mul .. => 0x50
  | .mul64 .. => 0x51
  | .sqr .. => 0x52
  | .cube .. => 0x53
  | .pow .. => 0x54
  | .uDiv .. => 0x60
  | .uRem .. => 0x61
  | .uDivRem .. => 0x62
  | .sMul .. => 0x70
  | .sDiv .. => 0x71
  | .sRem .. => 0x72
  | .sDivRem .. => 0x73
  | .sAbs .. => 0x74
  | .sFsqrt .. => 0x78
  | .sCsqrt .. => 0x79
  | .sFcbrt .. => 0x7A
  | .sCcbrt .. => 0x7B
  | .uGcd .. => 0x80
  | .uModAdd .. => 0x90
  | .uModSub .. => 0x91
  | .uModMul .. => 0x92
  | .uModPow .. => 0x93
  | .uFsqrt .. => 0xA0
  | .uCsqrt .. => 0xA1
  | .uFcbrt .. => 0xA2
  | .uCcbrt .. => 0xA3

/-- The command word of a command: its opcode with its fields in the places of its format
(30_encoding.md R62 to R68). On a well-formed command this is the one word that decodes to it. -/
def encode (i : Instr) : Cmd :=
  match i with
  | .nop => encodeN (opcode i)
  | .ldc rd k => encodeK (opcode i) rd k
  | .mov rd rs1 => encodeR1 (opcode i) rd rs1
  | .zext8 rd rs1 => encodeR1 (opcode i) rd rs1
  | .zext16 rd rs1 => encodeR1 (opcode i) rd rs1
  | .zext32 rd rs1 => encodeR1 (opcode i) rd rs1
  | .zext64 rd rs1 => encodeR1 (opcode i) rd rs1
  | .sext8 rd rs1 => encodeR1 (opcode i) rd rs1
  | .sext16 rd rs1 => encodeR1 (opcode i) rd rs1
  | .sext32 rd rs1 => encodeR1 (opcode i) rd rs1
  | .sext64 rd rs1 => encodeR1 (opcode i) rd rs1
  | .cvtUF64 rd rs1 => encodeR1 (opcode i) rd rs1
  | .cvtF64U rd rs1 => encodeR1 (opcode i) rd rs1
  | .cvtSF64 rd rs1 => encodeR1 (opcode i) rd rs1
  | .cvtF64S rd rs1 => encodeR1 (opcode i) rd rs1
  | .and rd rs1 rs2 => encodeR2 (opcode i) rd rs1 rs2
  | .or rd rs1 rs2 => encodeR2 (opcode i) rd rs1 rs2
  | .xor rd rs1 rs2 => encodeR2 (opcode i) rd rs1 rs2
  | .not rd rs1 => encodeR1 (opcode i) rd rs1
  | .shl rd rs1 rs2 => encodeR2 (opcode i) rd rs1 rs2
  | .shr rd rs1 rs2 => encodeR2 (opcode i) rd rs1 rs2
  | .sar rd rs1 rs2 => encodeR2 (opcode i) rd rs1 rs2
  | .shli rd rs1 shamt => encodeRI (opcode i) rd rs1 shamt
  | .shri rd rs1 shamt => encodeRI (opcode i) rd rs1 shamt
  | .sari rd rs1 shamt => encodeRI (opcode i) rd rs1 shamt
  | .eq rd rs1 rs2 => encodeR2 (opcode i) rd rs1 rs2
  | .ne rd rs1 rs2 => encodeR2 (opcode i) rd rs1 rs2
  | .uLt rd rs1 rs2 => encodeR2 (opcode i) rd rs1 rs2
  | .uLe rd rs1 rs2 => encodeR2 (opcode i) rd rs1 rs2
  | .uGt rd rs1 rs2 => encodeR2 (opcode i) rd rs1 rs2
  | .uGe rd rs1 rs2 => encodeR2 (opcode i) rd rs1 rs2
  | .uCmp rd rs1 rs2 => encodeR2 (opcode i) rd rs1 rs2
  | .uMin rd rs1 rs2 => encodeR2 (opcode i) rd rs1 rs2
  | .uMax rd rs1 rs2 => encodeR2 (opcode i) rd rs1 rs2
  | .sLt rd rs1 rs2 => encodeR2 (opcode i) rd rs1 rs2
  | .sLe rd rs1 rs2 => encodeR2 (opcode i) rd rs1 rs2
  | .sGt rd rs1 rs2 => encodeR2 (opcode i) rd rs1 rs2
  | .sGe rd rs1 rs2 => encodeR2 (opcode i) rd rs1 rs2
  | .sCmp rd rs1 rs2 => encodeR2 (opcode i) rd rs1 rs2
  | .sMin rd rs1 rs2 => encodeR2 (opcode i) rd rs1 rs2
  | .sMax rd rs1 rs2 => encodeR2 (opcode i) rd rs1 rs2
  | .add rd rs1 rs2 => encodeR2 (opcode i) rd rs1 rs2
  | .sub rd rs1 rs2 => encodeR2 (opcode i) rd rs1 rs2
  | .neg rd rs1 => encodeR1 (opcode i) rd rs1
  | .inc rd rs1 => encodeR1 (opcode i) rd rs1
  | .dec rd rs1 => encodeR1 (opcode i) rd rs1
  | .mul rd rs1 rs2 => encodeR2 (opcode i) rd rs1 rs2
  | .mul64 rd rs1 rs2 => encodeR2 (opcode i) rd rs1 rs2
  | .sqr rd rs1 => encodeR1 (opcode i) rd rs1
  | .cube rd rs1 => encodeR1 (opcode i) rd rs1
  | .pow rd rs1 rs2 => encodeR2 (opcode i) rd rs1 rs2
  | .uDiv rd rs1 rs2 => encodeR2 (opcode i) rd rs1 rs2
  | .uRem rd rs1 rs2 => encodeR2 (opcode i) rd rs1 rs2
  | .uDivRem rd rd2 rs1 rs2 => encodeR2D (opcode i) rd rd2 rs1 rs2
  | .sMul rd rs1 rs2 => encodeR2 (opcode i) rd rs1 rs2
  | .sDiv rd rs1 rs2 => encodeR2 (opcode i) rd rs1 rs2
  | .sRem rd rs1 rs2 => encodeR2 (opcode i) rd rs1 rs2
  | .sDivRem rd rd2 rs1 rs2 => encodeR2D (opcode i) rd rd2 rs1 rs2
  | .sAbs rd rs1 => encodeR1 (opcode i) rd rs1
  | .sFsqrt rd rs1 => encodeR1 (opcode i) rd rs1
  | .sCsqrt rd rs1 => encodeR1 (opcode i) rd rs1
  | .sFcbrt rd rs1 => encodeR1 (opcode i) rd rs1
  | .sCcbrt rd rs1 => encodeR1 (opcode i) rd rs1
  | .uGcd rd rs1 rs2 => encodeR2 (opcode i) rd rs1 rs2
  | .uModAdd rd rs1 rs2 rs3 => encodeR3 (opcode i) rd rs1 rs2 rs3
  | .uModSub rd rs1 rs2 rs3 => encodeR3 (opcode i) rd rs1 rs2 rs3
  | .uModMul rd rs1 rs2 rs3 => encodeR3 (opcode i) rd rs1 rs2 rs3
  | .uModPow rd rs1 rs2 rs3 => encodeR3 (opcode i) rd rs1 rs2 rs3
  | .uFsqrt rd rs1 => encodeR1 (opcode i) rd rs1
  | .uCsqrt rd rs1 => encodeR1 (opcode i) rd rs1
  | .uFcbrt rd rs1 => encodeR1 (opcode i) rd rs1
  | .uCcbrt rd rs1 => encodeR1 (opcode i) rd rs1

end Sys2Proof
end

