-- ==== Sys2Proof/Machine/Operands.lean ====
section
/-! DEFINITION. How a 128-bit pattern is read and made: limbs, the unsigned and the signed reading,
negation and magnitude, patterns of integers, extension (00_scope.md R10 to R12), and the constants of
40_representation_conversion.md R91. -/

namespace Sys2Proof.Machine

/-- `v.lo`, bits 63:0 (00_scope.md R10). -/
def lo (v : Word) : Limb := v.extractLsb' 0 64

/-- `v.hi`, bits 127:64 (00_scope.md R10). -/
def hi (v : Word) : Limb := v.extractLsb' 64 64

/-- `{h, l}`: the value with high limb `h` and low limb `l`, "`hi * 2^64 + lo`" (00_scope.md R10). -/
def ofLimbs (h l : Limb) : Word := h ++ l

/-- `u(v)`, the unsigned reading, in `[0, 2^128)` (00_scope.md R11). -/
def uVal (v : Word) : Nat := v.toNat

/-- The sign of a value: "negative iff that bit is set", the top bit of `hi` (00_scope.md R11). -/
def isNeg (v : Word) : Bool := v.getLsbD 127

/-- `s(v)`, the signed reading, in `[-2^127, 2^127)` (00_scope.md R11). -/
def sVal (v : Word) : Int := if isNeg v then (uVal v : Int) - 2 ^ 128 else uVal v

/-- `s64(l)`, a limb read as a signed 64-bit number (41_bitwise_shift_compare.md R129, 47_signed.md
R299). -/
def s64 (l : Limb) : Int := if l.getLsbD 63 then (l.toNat : Int) - 2 ^ 64 else l.toNat

/-- `pat_128(n)`: the pattern of the integer `n` reduced modulo `2^128` (00_scope.md R12). -/
def pat (n : Int) : Word := BitVec.ofInt 128 n

/-- `pat_64(n)`, the limb of the integer `n` reduced modulo `2^64` (00_scope.md R12). -/
def pat64 (n : Int) : Limb := BitVec.ofInt 64 n

/-- `neg(v)`: the pattern with `u(neg(v)) = (2^128 - u(v)) mod 2^128` (00_scope.md R11). -/
def neg (v : Word) : Word := pat ((2 ^ 128 : Nat) - uVal v)

/-- `mag(v)`: `v` when its sign bit is clear, `neg(v)` when it is set (00_scope.md R11). -/
def mag (v : Word) : Word := if isNeg v then neg v else v

/-- `zext_128(v[w-1:0])`: zero-extension of the low `w` bits (00_scope.md R12). -/
def zextLow (w : Nat) (v : Word) : Word := (v.extractLsb' 0 w).zeroExtend 128

/-- `sext_128(v[w-1:0])`: sign-extension of the low `w` bits (00_scope.md R12). -/
def sextLow (w : Nat) (v : Word) : Word := (v.extractLsb' 0 w).signExtend 128

/-- `bitlen(n)`: the number of significant bits, `bitlen(0) = 0` (00_scope.md R12). -/
def bitlen (n : Nat) : Nat := if n = 0 then 0 else Nat.log2 n + 1

/-- `clz32(d)`: leading zero bits of a 32-bit digit, `32 - bitlen(d)` (00_scope.md R12). -/
def clz32 (d : Nat) : Nat := 32 - bitlen d

/-- The number of trailing zero bits of `n`, looking at its low `k` bits only
(40_representation_conversion.md R105). -/
def trailingZeros : (k n : Nat) → Nat
  | 0, _ => 0
  | k + 1, n => if n % 2 = 1 then 0 else 1 + trailingZeros k (n / 2)

/-! The constants of the two value types (40_representation_conversion.md R91). -/

/-- `Zero`: all bits 0. -/
def zeroWord : Word := ofLimbs 0 0

/-- `One`: `hi = 0, lo = 1`. -/
def oneWord : Word := ofLimbs 0 1

/-- Unsigned `MaxValue`, the same pattern as signed `MinusOne`: all bits 1. -/
def maxWord : Word := ofLimbs 0xFFFFFFFFFFFFFFFF 0xFFFFFFFFFFFFFFFF

/-- Signed `MinValue`: top bit of `hi` set, rest zero. -/
def sMinWord : Word := ofLimbs 0x8000000000000000 0

/-- Signed `MaxValue`: top bit of `hi` clear, rest one. -/
def sMaxWord : Word := ofLimbs 0x7FFFFFFFFFFFFFFF 0xFFFFFFFFFFFFFFFF

end Sys2Proof.Machine
end

