-- ==== Sys2Proof/Config.lean ====
section
/-! DEFINITION. What the spec leaves to the configuration record `cfg` (00_scope.md R9), as constants
without a body: no proof can learn a value of them, so what is proved holds whatever they are. The
parts of the two conversions that the spec does fix (FP1, FP3) are in Machine/Convert.lean. -/

namespace Sys2Proof.Config

/-- `cfg.resetQ`, DESIGN CHOICE (log 4): what register `i` holds after reset number `n`, "a free draw
per register and per reset" (70_reset_and_hazards.md R391). -/
opaque resetQ : Nat → Reg → Word

/-- `cfg.shiftDraw(opcode, a, b)`: what `SHL`, `SHR`, `SAR` write when the amount is 128 or more
(41_bitwise_shift_compare.md R131); log 6. -/
opaque shiftDraw : BitVec 8 → Word → Word → Word

/-- `cfg.f64ToU128` on the patterns that property FP2 leaves unconstrained
(40_representation_conversion.md R104); log 7. -/
opaque f64ToU128Free : Limb → Word

/-- `cfg.u128ToF64` on the values that property FP4 leaves unconstrained
(40_representation_conversion.md R105); log 8. -/
opaque u128ToF64Free : Word → Limb

/-- `cfg.useMontgomery`: whether the modular unit may take the Montgomery path; it changes no result
(46_modular.md R279); log 15. -/
opaque useMontgomery : Bool

end Sys2Proof.Config
end

