-- ==== Sys2Proof/Machine/State.lean ====
section
/-! DEFINITION. The architectural state of the core (10_state.md), the host transactions that act on
it (20_memory.md R41), the fault kinds (60_exceptions.md R361) and the state after reset
(70_reset_and_hazards.md R390 to R393). -/

namespace Sys2Proof.Machine

/-- Why a step would stop the machine. NOBODY RAISES ANYTHING HERE: the type has no constructor. The
spec gives every transaction and every command an effect, and its faults are latched in `STATUS` while
the machine goes on (60_exceptions.md R364), so no step of this core ends in a stop (log 20). -/
inductive Fault where
deriving DecidableEq, Repr

/-- Why a step would have no meaning. -/
inductive Refusal where
  /-- Raised by an arm of `exec` whose command has no meaning yet. All 72 have one, so nobody raises
  it. Safe: a refusal proves nothing about the hardware. -/
  | notModelled (mnemonic : String)
deriving DecidableEq, Repr

/-- The error kinds that have a fault code (60_exceptions.md R361). -/
inductive FaultKind where
  /-- The word written to `CMD` is not a legal command, or its upper half is not zero. -/
  | illegalCommand
  /-- "divisor is zero in division or remainder"; also a zero modulus. -/
  | divideByZero
  /-- "negative operand passed to an operation defined only over non-negative values". -/
  | domainError
  /-- A number kept for host software: never raised by hardware. -/
  | formatError
deriving DecidableEq, Repr

/-- A transaction of the host port (20_memory.md R41). -/
inductive Transaction where
  /-- `PortWrite(addr, data)`. -/
  | write (addr : PortAddr) (data : Limb)
  /-- `PortRead(addr)`. -/
  | read (addr : PortAddr)
  /-- `Reset` (70_reset_and_hazards.md R390). -/
  | reset
deriving DecidableEq, Repr

/-- The state of the machine. `q`, `fcode` and `fcmd` are all the state the spec gives the core
(10_state.md R30); `pending`, `returned` and `resets` are the model's own fields for the host's side
of the port and for the draws of a reset (log 1, log 2, log 5). -/
structure State where
  /-- The 16 value registers `q0` .. `q15` (10_state.md R21). -/
  q : Vector Word 16
  /-- `STATUS.FCODE`, bits 3:0 of `STATUS`: 0 when no fault is latched (10_state.md R25). -/
  fcode : BitVec 4
  /-- `STATUS.FCMD`, bits 63:32 of `STATUS`: the command word that faulted (10_state.md R25). -/
  fcmd : Cmd
  /-- The model's own: the host transactions still to come, oldest first (20_memory.md R52). -/
  pending : List Transaction
  /-- The model's own: the data that `PortRead`s have returned, oldest first (20_memory.md R41). -/
  returned : List Limb
  /-- The model's own: how many draws of `cfg.resetQ` have been used (70_reset_and_hazards.md R391). -/
  resets : Nat
deriving DecidableEq, Repr

/-- The register file that reset number `n` leaves: register `i` holds the draw `cfg.resetQ(i)` of
that reset (70_reset_and_hazards.md R391). -/
def resetRegisters (n : Nat) : Vector Word 16 :=
  Vector.ofFn fun i => Config.resetQ n (BitVec.ofFin i)

/-- The machine right after a `Reset` (70_reset_and_hazards.md R390 to R393): no fault latched, the
registers unspecified draws. No host transaction is outstanding (log 1). -/
def State.reset : State where
  q := resetRegisters 0
  fcode := 0
  fcmd := 0
  pending := []
  returned := []
  resets := 1

end Sys2Proof.Machine
end

