-- ==== Sys2Proof/Machine/Flags.lean ====
section
/-! DEFINITION. The core has no condition codes, no carry, no overflow flag and no predicate registers
(10_state.md R24). What stands in their place: the result format of the comparison commands
(41_bitwise_shift_compare.md R140), the fault codes (60_exceptions.md R361), the view of `STATUS` as
one 64-bit register (10_state.md R25) and the `fault` output (60_exceptions.md R364). -/

namespace Sys2Proof.Machine

/-- A Boolean result: `One` for true, `Zero` for false (41_bitwise_shift_compare.md R140). -/
def boolWord (b : Bool) : Word := if b then oneWord else zeroWord

/-- A three-way result: `MinusOne` when the first is smaller, `Zero` when equal, `One` when greater
(41_bitwise_shift_compare.md R140). -/
def threeWay (smaller equal : Bool) : Word :=
  if smaller then maxWord else if equal then zeroWord else oneWord

/-- The fault codes (60_exceptions.md R361). -/
def FaultKind.code : FaultKind → BitVec 4
  | .illegalCommand => 1
  | .divideByZero => 2
  | .domainError => 3
  | .formatError => 4

/-- `STATUS` read whole, `{FCMD, 28'b0, FCODE}` (10_state.md R25, 20_memory.md R45). The reserved bits
31:4 are no storage: they read as zero and writes to them are ignored. -/
def State.status (s : State) : Limb := s.fcmd ++ (0#28 ++ s.fcode)

/-- A fault is latched: `STATUS.FCODE ≠ 0` (60_exceptions.md R366). -/
def State.latched (s : State) : Bool := s.fcode != 0

/-- The level output `fault = (STATUS.FCODE ≠ 0)` (60_exceptions.md R364, R369). -/
def State.faultOutput (s : State) : Bool := s.latched

end Sys2Proof.Machine
end

