-- ==== Sys2Proof/Machine/Ops.lean ====
section
/-! DEFINITION. The named operations on the state: reading and writing value registers (10_state.md
R22), fault entry and return from a fault (60_exceptions.md R364, R367), the shapes of a command by
its operand format (30_encoding.md R60 steps 2 to 4), and the effect of each port transaction except
the execution of a command (20_memory.md R42 to R46, 70_reset_and_hazards.md R390 to R393). -/

namespace Sys2Proof.Machine

/-! ## Value registers -/

/-- `q[r]`: the value register `r` (00_scope.md R12, 10_state.md R22). -/
def State.reg (s : State) (r : Reg) : Word := s.q[r.toNat]'(r.isLt)

/-- `q[r] <- v` (00_scope.md R12, 10_state.md R22). No register is hardwired and none aliases another
(R21). -/
def State.setReg (s : State) (r : Reg) (v : Word) : State :=
  { s with q := s.q.set r.toNat v r.isLt }

/-! ## Faults -/

/-- `raise F(c)`, fault entry: `STATUS.FCODE` takes the code of `F`, `STATUS.FCMD` the command word,
and no value register is written; nothing else is saved or changed (60_exceptions.md R364). A command
raises with its own encoding, which is the word the host wrote (log 9). -/
def State.raise (s : State) (k : FaultKind) (c : Cmd) : State :=
  { s with fcode := k.code, fcmd := c }

/-- Return from a fault: a host write to `STATUS` sets `FCODE` and `FCMD` to 0 whatever the data, and
restores nothing (60_exceptions.md R367, 20_memory.md R45). -/
def State.clearFault (s : State) : State := { s with fcode := 0, fcmd := 0 }

/-! ## Command shapes: all sources are read before any write (10_state.md R22) -/

/-- A command with one source. -/
def unaryOp (f : Word → Word) (rd rs1 : Reg) (s : State) : State :=
  s.setReg rd (f (s.reg rs1))

/-- A command with two sources. -/
def binaryOp (f : Word → Word → Word) (rd rs1 rs2 : Reg) (s : State) : State :=
  s.setReg rd (f (s.reg rs1) (s.reg rs2))

/-- A command with three sources. -/
def ternaryOp (f : Word → Word → Word → Word) (rd rs1 rs2 rs3 : Reg) (s : State) : State :=
  s.setReg rd (f (s.reg rs1) (s.reg rs2) (s.reg rs3))

/-- A command with two sources and two results: the first to `rd`, the second to `rd2`, both computed
from the values read before either write (44_divide.md R212, 47_signed.md R303). -/
def pairOp (f g : Word → Word → Word) (rd rd2 rs1 rs2 : Reg) (s : State) : State :=
  (s.setReg rd (f (s.reg rs1) (s.reg rs2))).setReg rd2 (g (s.reg rs1) (s.reg rs2))

/-! ## Port transactions -/

/-- The register that a limb address belongs to, `i = a[4:1]` (20_memory.md R42). -/
def limbReg (a : PortAddr) : Reg := a.extractLsb' 1 4

/-- `PortWrite(a, d)` with `a ≤ 0x1F`: one limb of one register is replaced, the other limb kept
(20_memory.md R42). -/
def State.writeLimb (s : State) (a : PortAddr) (d : Limb) : State :=
  let v := s.reg (limbReg a)
  s.setReg (limbReg a) (if a.getLsbD 0 then ofLimbs d (lo v) else ofLimbs (hi v) d)

/-- The data of `PortRead(a)` with `a ≤ 0x1F` (20_memory.md R43). -/
def State.readLimb (s : State) (a : PortAddr) : Limb :=
  if a.getLsbD 0 then hi (s.reg (limbReg a)) else lo (s.reg (limbReg a))

/-- The data of `PortRead(a)` for every address of the map (20_memory.md R41, R43 to R46): a limb,
`STATUS` at `0x21`, and 0 at `CMD` and at the reserved addresses. -/
def State.portData (s : State) (a : PortAddr) : Limb :=
  if a.toNat ≤ 0x1F then s.readLimb a else if a = 0x21 then s.status else 0

/-- `PortRead(a)`: the data goes to the host, and nothing of the core changes (20_memory.md R43 to
R46, R49; log 2). -/
def State.portRead (s : State) (a : PortAddr) : State :=
  { s with returned := s.returned ++ [s.portData a] }

/-- `Reset`: every register takes a fresh draw and the fault latch is cleared
(70_reset_and_hazards.md R390 to R393). The transactions after it and the data already returned are
the host's and stay. -/
def State.portReset (s : State) : State :=
  { s with q := resetRegisters s.resets, fcode := 0, fcmd := 0, resets := s.resets + 1 }

/-- A host write to `CMD` (20_memory.md R44): dropped while a fault is latched (60_exceptions.md R366);
otherwise IllegalCommand when the data decodes to no command, with `FCMD = data[31:0]`; otherwise the
command runs, `run` being its meaning. -/
def State.portCommand (s : State) (run : Instr → State → Host.Outcome State Fault Refusal)
    (d : Limb) : Host.Outcome State Fault Refusal :=
  if s.latched then .next s
  else
    match decodeData d with
    | .ok i => run i s
    | .error _ => .next (s.raise .illegalCommand (d.extractLsb' 0 32))

/-- `PortWrite(a, d)` for every address of the map (20_memory.md R41, R42, R44 to R46). -/
def State.portWrite (s : State) (run : Instr → State → Host.Outcome State Fault Refusal)
    (a : PortAddr) (d : Limb) : Host.Outcome State Fault Refusal :=
  if a.toNat ≤ 0x1F then .next (s.writeLimb a d)
  else if a = 0x20 then s.portCommand run d
  else if a = 0x21 then .next s.clearFault
  else .next s

/-- One host transaction, performed whole (20_memory.md R41, R52). -/
def State.perform (s : State) (run : Instr → State → Host.Outcome State Fault Refusal) :
    Transaction → Host.Outcome State Fault Refusal
  | .write a d => s.portWrite run a d
  | .read a => .next (s.portRead a)
  | .reset => .next s.portReset

/-- One step of the machine, `run` being the meaning of commands: the oldest transaction of the host
is taken and performed; with none outstanding nothing happens (20_memory.md R52, 60_exceptions.md
R369; log 3). -/
def State.stepWith (s : State) (run : Instr → State → Host.Outcome State Fault Refusal) :
    Host.Outcome State Fault Refusal :=
  match s.pending with
  | [] => .next s
  | t :: rest => { s with pending := rest }.perform run t

/-- The host issues `t` next: it stands before every transaction still to come (log 1). -/
def State.offer (s : State) (t : Transaction) : State := { s with pending := t :: s.pending }

/-- The host issues the `CMD` write with data `d` next, with the latch clear so that it is not dropped
(log 11). -/
def State.offerCommand (s : State) (d : Limb) : State := s.clearFault.offer (.write 0x20 d)

end Sys2Proof.Machine
end

