-- ==== Sys2Proof/Machine/AddSub.lean ====
section
/-! DEFINITION. The addition and subtraction commands (42_add_sub.md R160 to R165, R169), which wrap
modulo `2^128` without a signal, and the multi-limb adder/subtractor they agree with (R166, R167). -/

namespace Sys2Proof.Machine

/-- `ADD`: `pat_128(u(a) + u(b))` (42_add_sub.md R160). -/
def addWord (a b : Word) : Word := pat (uVal a + uVal b)

/-- `SUB`: `pat_128(u(a) - u(b))` (42_add_sub.md R161). -/
def subWord (a b : Word) : Word := pat (uVal a - uVal b)

/-- `ADD rd, rs1, rs2` (42_add_sub.md R160). -/
def execAdd (rd rs1 rs2 : Reg) (s : State) : Host.Outcome State Fault Refusal :=
  .next (binaryOp addWord rd rs1 rs2 s)

/-- `SUB rd, rs1, rs2` (42_add_sub.md R161). -/
def execSub (rd rs1 rs2 : Reg) (s : State) : Host.Outcome State Fault Refusal :=
  .next (binaryOp subWord rd rs1 rs2 s)

/-- `NEG rd, rs1` (42_add_sub.md R162). -/
def execNeg (rd rs1 : Reg) (s : State) : Host.Outcome State Fault Refusal :=
  .next (unaryOp neg rd rs1 s)

/-- `INC rd, rs1`: `pat_128(u(a) + 1)` (42_add_sub.md R163). -/
def execInc (rd rs1 : Reg) (s : State) : Host.Outcome State Fault Refusal :=
  .next (unaryOp (fun a => pat (uVal a + 1)) rd rs1 s)

/-- `DEC rd, rs1`: `pat_128(u(a) - 1)` (42_add_sub.md R164). -/
def execDec (rd rs1 : Reg) (s : State) : Host.Outcome State Fault Refusal :=
  .next (unaryOp (fun a => pat (uVal a - 1)) rd rs1 s)

/-- The adder: limb sums, the carry found by a wraparound comparison (42_add_sub.md R166). -/
def adderPath (a b : Word) : Word :=
  let lo' := lo a + lo b
  let carry : Limb := if lo'.toNat < (lo a).toNat then 1 else 0
  ofLimbs (hi a + hi b + carry) lo'

/-- The subtractor: "Subtraction mirrors with borrow instead of carry" (42_add_sub.md R167). -/
def subtractorPath (a b : Word) : Word :=
  let borrow : Limb := if (lo a).toNat < (lo b).toNat then 1 else 0
  ofLimbs (hi a - hi b - borrow) (lo a - lo b)

end Sys2Proof.Machine
end

