-- ==== Sys2Proof/Machine/Bitwise.lean ====
section
/-! DEFINITION. The bitwise commands (41_bitwise_shift_compare.md R120 to R124): "Bitwise
AND/OR/XOR/NOT operate limb-wise independently; no cross-limb interaction." -/

namespace Sys2Proof.Machine

/-- A two-operand logic operation, limb by limb (41_bitwise_shift_compare.md R124). -/
def limbwise (f : Limb → Limb → Limb) (a b : Word) : Word :=
  ofLimbs (f (hi a) (hi b)) (f (lo a) (lo b))

/-- `AND rd, rs1, rs2` (41_bitwise_shift_compare.md R120). -/
def execAnd (rd rs1 rs2 : Reg) (s : State) : Host.Outcome State Fault Refusal :=
  .next (binaryOp (limbwise fun x y => x &&& y) rd rs1 rs2 s)

/-- `OR rd, rs1, rs2` (41_bitwise_shift_compare.md R121). -/
def execOr (rd rs1 rs2 : Reg) (s : State) : Host.Outcome State Fault Refusal :=
  .next (binaryOp (limbwise fun x y => x ||| y) rd rs1 rs2 s)

/-- `XOR rd, rs1, rs2` (41_bitwise_shift_compare.md R122). -/
def execXor (rd rs1 rs2 : Reg) (s : State) : Host.Outcome State Fault Refusal :=
  .next (binaryOp (limbwise fun x y => x ^^^ y) rd rs1 rs2 s)

/-- `NOT rd, rs1`: 64-bit complements (41_bitwise_shift_compare.md R123). -/
def execNot (rd rs1 : Reg) (s : State) : Host.Outcome State Fault Refusal :=
  .next (unaryOp (fun a => ofLimbs (~~~ hi a) (~~~ lo a)) rd rs1 s)

end Sys2Proof.Machine
end

