-- ==== Sys2Proof/Machine/Compare.lean ====
section
/-! DEFINITION. The comparison commands of both types (41_bitwise_shift_compare.md R140 to R149,
47_signed.md R292 to R298) and the limb-level comparators they agree with (41 R150, 47 R299). -/

namespace Sys2Proof.Machine

/-- `EQ rd, rs1, rs2`: "Equality is bitwise limb equality" (41_bitwise_shift_compare.md R141). -/
def execEq (rd rs1 rs2 : Reg) (s : State) : Host.Outcome State Fault Refusal :=
  .next (binaryOp (fun a b => boolWord (hi a == hi b && lo a == lo b)) rd rs1 rs2 s)

/-- `NE rd, rs1, rs2` (41_bitwise_shift_compare.md R142). -/
def execNe (rd rs1 rs2 : Reg) (s : State) : Host.Outcome State Fault Refusal :=
  .next (binaryOp (fun a b => boolWord (!(hi a == hi b && lo a == lo b))) rd rs1 rs2 s)

/-! ## Unsigned -/

/-- `U.LT rd, rs1, rs2` (41_bitwise_shift_compare.md R143). -/
def execULt (rd rs1 rs2 : Reg) (s : State) : Host.Outcome State Fault Refusal :=
  .next (binaryOp (fun a b => boolWord (decide (uVal a < uVal b))) rd rs1 rs2 s)

/-- `U.LE rd, rs1, rs2` (41_bitwise_shift_compare.md R144). -/
def execULe (rd rs1 rs2 : Reg) (s : State) : Host.Outcome State Fault Refusal :=
  .next (binaryOp (fun a b => boolWord (decide (uVal a ≤ uVal b))) rd rs1 rs2 s)

/-- `U.GT rd, rs1, rs2` (41_bitwise_shift_compare.md R145). -/
def execUGt (rd rs1 rs2 : Reg) (s : State) : Host.Outcome State Fault Refusal :=
  .next (binaryOp (fun a b => boolWord (decide (uVal a > uVal b))) rd rs1 rs2 s)

/-- `U.GE rd, rs1, rs2` (41_bitwise_shift_compare.md R146). -/
def execUGe (rd rs1 rs2 : Reg) (s : State) : Host.Outcome State Fault Refusal :=
  .next (binaryOp (fun a b => boolWord (decide (uVal a ≥ uVal b))) rd rs1 rs2 s)

/-- `U.CMP rd, rs1, rs2` (41_bitwise_shift_compare.md R147). -/
def execUCmp (rd rs1 rs2 : Reg) (s : State) : Host.Outcome State Fault Refusal :=
  .next (binaryOp (fun a b => threeWay (decide (uVal a < uVal b)) (decide (uVal a = uVal b)))
    rd rs1 rs2 s)

/-- `U.MIN rd, rs1, rs2` (41_bitwise_shift_compare.md R148). -/
def execUMin (rd rs1 rs2 : Reg) (s : State) : Host.Outcome State Fault Refusal :=
  .next (binaryOp (fun a b => if uVal a ≤ uVal b then a else b) rd rs1 rs2 s)

/-- `U.MAX rd, rs1, rs2` (41_bitwise_shift_compare.md R149). -/
def execUMax (rd rs1 rs2 : Reg) (s : State) : Host.Outcome State Fault Refusal :=
  .next (binaryOp (fun a b => if uVal a ≥ uVal b then a else b) rd rs1 rs2 s)

/-! ## Signed -/

/-- `S.LT rd, rs1, rs2` (47_signed.md R292). -/
def execSLt (rd rs1 rs2 : Reg) (s : State) : Host.Outcome State Fault Refusal :=
  .next (binaryOp (fun a b => boolWord (decide (sVal a < sVal b))) rd rs1 rs2 s)

/-- `S.LE rd, rs1, rs2` (47_signed.md R293). -/
def execSLe (rd rs1 rs2 : Reg) (s : State) : Host.Outcome State Fault Refusal :=
  .next (binaryOp (fun a b => boolWord (decide (sVal a ≤ sVal b))) rd rs1 rs2 s)

/-- `S.GT rd, rs1, rs2` (47_signed.md R294). -/
def execSGt (rd rs1 rs2 : Reg) (s : State) : Host.Outcome State Fault Refusal :=
  .next (binaryOp (fun a b => boolWord (decide (sVal a > sVal b))) rd rs1 rs2 s)

/-- `S.GE rd, rs1, rs2` (47_signed.md R295). -/
def execSGe (rd rs1 rs2 : Reg) (s : State) : Host.Outcome State Fault Refusal :=
  .next (binaryOp (fun a b => boolWord (decide (sVal a ≥ sVal b))) rd rs1 rs2 s)

/-- `S.CMP rd, rs1, rs2` (47_signed.md R296). -/
def execSCmp (rd rs1 rs2 : Reg) (s : State) : Host.Outcome State Fault Refusal :=
  .next (binaryOp (fun a b => threeWay (decide (sVal a < sVal b)) (decide (sVal a = sVal b)))
    rd rs1 rs2 s)

/-- `S.MIN rd, rs1, rs2` (47_signed.md R297). -/
def execSMin (rd rs1 rs2 : Reg) (s : State) : Host.Outcome State Fault Refusal :=
  .next (binaryOp (fun a b => if sVal a ≤ sVal b then a else b) rd rs1 rs2 s)

/-- `S.MAX rd, rs1, rs2` (47_signed.md R298). -/
def execSMax (rd rs1 rs2 : Reg) (s : State) : Host.Outcome State Fault Refusal :=
  .next (binaryOp (fun a b => if sVal a ≥ sVal b then a else b) rd rs1 rs2 s)

/-! ## The comparators -/

/-- The unsigned comparator: "compare `hi` first, tie-break on `lo`; both limbs compared as unsigned
quantities" (41_bitwise_shift_compare.md R150). -/
def unsignedLessPath (a b : Word) : Bool :=
  decide ((hi a).toNat < (hi b).toNat) || (hi a == hi b && decide ((lo a).toNat < (lo b).toNat))

/-- The signed comparator: the high limbs as signed 64-bit quantities, "falling back to the unsigned
low-limb comparison only when high limbs match" (47_signed.md R299). -/
def signedLessPath (a b : Word) : Bool :=
  decide (s64 (hi a) < s64 (hi b)) || (hi a == hi b && decide ((lo a).toNat < (lo b).toNat))

end Sys2Proof.Machine
end

