-- ==== Sys2Proof/Machine/Divide.lean ====
section
/-! DEFINITION. Unsigned division and remainder (44_divide.md R210 to R213) and the long-division
engine they agree with (R214 to R218). -/

namespace Sys2Proof.Machine

/-! ## Commands -/

/-- The unsigned quotient, `pat_128(u(a) div u(b))` (44_divide.md R210). -/
def udivWord (a b : Word) : Word := pat ((uVal a / uVal b : Nat) : Int)

/-- The unsigned remainder, `pat_128(u(a) mod u(b))` (44_divide.md R211). -/
def uremWord (a b : Word) : Word := pat ((uVal a % uVal b : Nat) : Int)

/-- The divisor is `Zero`: the condition of DivideByZero (60_exceptions.md R361). -/
def isZero (b : Word) : Bool := uVal b == 0

/-- `U.DIV rd, rs1, rs2` (44_divide.md R210). -/
def execUDiv (rd rs1 rs2 : Reg) (s : State) : Host.Outcome State Fault Refusal :=
  .next (if isZero (s.reg rs2) then s.raise .divideByZero (encode (.uDiv rd rs1 rs2))
    else binaryOp udivWord rd rs1 rs2 s)

/-- `U.REM rd, rs1, rs2` (44_divide.md R211). -/
def execURem (rd rs1 rs2 : Reg) (s : State) : Host.Outcome State Fault Refusal :=
  .next (if isZero (s.reg rs2) then s.raise .divideByZero (encode (.uRem rd rs1 rs2))
    else binaryOp uremWord rd rs1 rs2 s)

/-- `U.DIVREM rd, rd2, rs1, rs2` (44_divide.md R212); `rd = rd2` is IllegalCommand (30_encoding.md
R68; log 10). -/
def execUDivRem (rd rd2 rs1 rs2 : Reg) (s : State) : Host.Outcome State Fault Refusal :=
  .next (if rd = rd2 then s.raise .illegalCommand (encode (.uDivRem rd rd2 rs1 rs2))
    else if isZero (s.reg rs2) then s.raise .divideByZero (encode (.uDivRem rd rd2 rs1 rs2))
    else pairOp udivWord uremWord rd rd2 rs1 rs2 s)

/-! ## The long-division engine

It works on 32-bit digits, `B = 2^32`. A number of several digits is held as the natural number it
denotes; digit `i` of it is `digit n i`. -/

/-- The radix of the engine, `B = 2^32` (44_divide.md section 2). -/
def radix : Nat := 2 ^ 32

/-- Digit `i` of a number, least significant first. -/
def digit (n i : Nat) : Nat := n / radix ^ i % radix

/-- The number of 32-bit digits of `n`, its top digit non-zero. -/
def digitCount (n : Nat) : Nat := (bitlen n + 31) / 32

/-- The native 64-bit path: quotient and remainder of the low limbs (44_divide.md R215). -/
def nativePath (a b : Nat) : Nat × Nat := (a % 2 ^ 64 / (b % 2 ^ 64), a % 2 ^ 64 % (b % 2 ^ 64))

/-- The schoolbook loop over the digits `i - 1` down to 0 of `a`, with running remainder `r` and the
quotient so far (44_divide.md R216). -/
def schoolbookLoop (a v : Nat) : (i r quot : Nat) → Nat × Nat
  | 0, r, quot => (quot, r)
  | i + 1, r, quot =>
    let t := r * radix + digit a i
    schoolbookLoop a v i (t % v) (quot + t / v * radix ^ i)

/-- The schoolbook path for a divisor below `2^32`: three digits when the top digit of the dividend is
zero, else four (44_divide.md R216). -/
def schoolbookPath (a v : Nat) : Nat × Nat :=
  schoolbookLoop a v (if digit a 3 = 0 then 3 else 4) 0 0

/-- Step D3's correction of the digit estimate: at most `fuel` times, and two suffice
(44_divide.md R217). `vTop` and `vNext` are the top two divisor digits, `uNext` the third dividend
digit of the window. -/
def correctEstimate (vTop vNext uNext : Nat) : (fuel qhat rhat : Nat) → Nat
  | 0, qhat, _ => qhat
  | fuel + 1, qhat, rhat =>
    if qhat ≥ radix ∨ qhat * vNext > rhat * radix + uNext then
      if rhat + vTop ≥ radix then qhat - 1
      else correctEstimate vTop vNext uNext fuel (qhat - 1) (rhat + vTop)
    else qhat

/-- Steps D3 to D6 for one quotient digit: from the dividend `uu` (already normalised), the divisor
`vv` of `n` digits and the digit position `j`, the quotient digit and the new dividend
(44_divide.md R217). -/
def knuthDigit (vv n : Nat) (uu j : Nat) : Nat × Nat :=
  let vTop := digit vv (n - 1)
  let num := digit uu (j + n) * radix + digit uu (j + n - 1)
  let qhat :=
    correctEstimate vTop (digit vv (n - 2)) (digit uu (j + n - 2)) 2 (num / vTop) (num % vTop)
  let window := uu / radix ^ j % radix ^ (n + 1)
  let rest := uu - window * radix ^ j
  if window < qhat * vv then
    (qhat - 1, rest + (window + radix ^ (n + 1) - qhat * vv + vv) % radix ^ (n + 1) * radix ^ j)
  else (qhat, rest + (window - qhat * vv) * radix ^ j)

/-- The loop D2 over the digit positions `j - 1` down to 0 (44_divide.md R217). -/
def knuthLoop (vv n : Nat) : (j uu quot : Nat) → Nat × Nat
  | 0, uu, quot => (quot, uu)
  | j + 1, uu, quot =>
    let step := knuthDigit vv n uu j
    knuthLoop vv n j step.2 (quot + step.1 * radix ^ j)

/-- Knuth Algorithm D for a dividend of `len` digits and a divisor of two or more: normalise (D1), find
the quotient digits (D2 to D6), denormalise the remainder (D8) (44_divide.md R217). -/
def knuthPath (len a v : Nat) : Nat × Nat :=
  let n := digitCount v
  let shift := clz32 (digit v (n - 1))
  let result := knuthLoop (v * 2 ^ shift) n (len - n + 1) (a * 2 ^ shift) 0
  (result.1, result.2 % radix ^ n / 2 ^ shift)

/-- The dispatch of the engine: the first condition that holds is taken; no result for a zero divisor
(44_divide.md R214, 90_conflicts.md C7). Quotient and remainder together, as R218 asks. -/
def divisionEngine (a b : Word) : Option (Word × Word) :=
  let wrap := fun (p : Nat × Nat) => (BitVec.ofNat 128 p.1, BitVec.ofNat 128 p.2)
  if uVal b = 0 then none
  else if uVal a < uVal b then some (zeroWord, a)
  else if hi b = 0 ∧ hi a = 0 then some (wrap (nativePath (uVal a) (uVal b)))
  else if uVal b < radix then some (wrap (schoolbookPath (uVal a) (uVal b)))
  else some (wrap (knuthPath 4 (uVal a) (uVal b)))

end Sys2Proof.Machine
end

