-- ==== Sys2Proof/Machine/Gcd.lean ====
section
/-! DEFINITION. The greatest common divisor command (45_gcd.md R240, R241) and the Lehmer GCD unit it
agrees with (R242 to R247). -/

namespace Sys2Proof.Machine

/-- `gcd(u(a), u(b))`, with `gcd(x, 0) = gcd(0, x) = x` (45_gcd.md R240). -/
def gcdWord (a b : Word) : Word := pat (Nat.gcd (uVal a) (uVal b))

/-- `U.GCD rd, rs1, rs2`: a zero operand is no error (45_gcd.md R240). -/
def execUGcd (rd rs1 rs2 : Reg) (s : State) : Host.Outcome State Fault Refusal :=
  .next (binaryOp gcdWord rd rs1 rs2 s)

/-! ## The GCD unit -/

/-- Euclid's algorithm for at most `fuel` steps, the phase 3 of the unit (45_gcd.md R246). A fuel above
`y` never runs out. -/
def euclid : (fuel x y : Nat) → Nat
  | 0, x, _ => x
  | fuel + 1, x, y => if y = 0 then x else euclid fuel y (x % y)

/-- The working state of the single-precision loop: the two leading parts, the cosequence matrix in
magnitude form, and the number of accepted half-steps (45_gcd.md R243). -/
structure Cosequence where
  xs : Nat
  ys : Nat
  a : Nat
  b : Nat
  c : Nat
  d : Nat
  it : Nat
deriving DecidableEq, Repr

/-- Jebelean's test: a half-step with new remainder `t`, new cosequence pair `(r, t2)` and previous
remainder and cosequence `(p, cp)` of the other row is accepted iff `t ≥ t2` and `t + r ≤ p - cp`
(45_gcd.md R244). The inequality is over the integers. -/
def jebelean (t r t2 p cp : Nat) : Bool := decide (t2 ≤ t) && decide ((t : Int) + r ≤ (p : Int) - cp)

/-- The single-precision loop (45_gcd.md R243): an odd half-step, then an even one, until a test fails
or a row ends. -/
def lehmerLoop : (fuel : Nat) → Cosequence → Cosequence
  | 0, m => m
  | fuel + 1, m =>
    if m.ys = 0 then m
    else
      let q := m.xs / m.ys
      let r := m.a + q * m.c
      let t2 := m.b + q * m.d
      let t := m.xs - q * m.ys
      if jebelean t r t2 m.ys m.c then
        let m1 := { m with a := r, b := t2, xs := t, it := m.it + 1 }
        if m1.xs = m1.b then m1
        else
          let q := m1.ys / m1.xs
          let r := m1.d + q * m1.b
          let t2 := m1.c + q * m1.a
          let t := m1.ys - q * m1.xs
          if jebelean t r t2 m1.xs m1.b then
            let m2 := { m1 with d := r, c := t2, ys := t, it := m1.it + 1 }
            if m2.ys = m2.c then m2 else lehmerLoop fuel m2
          else m1
      else m

/-- One pass of the phase 2 loop: the top 63 bits of both operands go through the single-precision
loop, then the matrix is applied, or one full-precision step is taken when its first row is unchanged
(45_gcd.md R243, R245). The spec says that both differences are non-negative; they are taken by
absolute value (log 17). -/
def lehmerPass (x y : Nat) : Nat × Nat :=
  let k := bitlen x - 63
  let m := lehmerLoop 128 ⟨x / 2 ^ k, y / 2 ^ k, 1, 0, 0, 1, 0⟩
  if m.b = 0 then (y, x % y)
  else
    let x' := ((m.a : Int) * x - m.b * y).natAbs
    let y' := ((m.d : Int) * y - m.c * x).natAbs
    if m.it % 2 = 1 then (y', x') else (x', y')

/-- Phase 2 and phase 3: Lehmer passes while the larger operand exceeds 64 bits, then Euclid
(45_gcd.md R243, R246). The passes are bounded (R247); were the bound reached, Euclid would finish
(log 17). -/
def lehmerPhases : (fuel x y : Nat) → Nat
  | 0, x, y => euclid (y + 1) x y
  | fuel + 1, x, y =>
    if x < 2 ^ 64 then euclid (y + 1) x y
    else if y = 0 then x
    else
      let p := lehmerPass x y
      lehmerPhases fuel p.1 p.2

/-- The GCD unit: order the operands, equalise their widths by one remainder when only one of them
fits in 64 bits, then the phases (45_gcd.md R242). -/
def gcdUnit (a b : Nat) : Nat :=
  let x := max a b
  let y := min a b
  if y = 0 then x
  else if 2 ^ 64 ≤ x ∧ y < 2 ^ 64 then lehmerPhases 256 y (x % y)
  else lehmerPhases 256 x y

end Sys2Proof.Machine
end

