-- ==== Sys2Proof/Machine/Multiply.lean ====
section
/-! DEFINITION. The multiplication commands (43_multiply.md R180 to R185) and the multiplier
datapaths they agree with (R186 to R190). `S.MUL` is in Signed.lean. -/

namespace Sys2Proof.Machine

/-! ## Commands -/

/-- `MUL`: `pat_128(u(a) * u(b))` (43_multiply.md R180). -/
def mulWord (a b : Word) : Word := pat ((uVal a * uVal b : Nat) : Int)

/-- Square-and-multiply over the low `k` bits of the exponent, least significant first, every product
reduced modulo `m`: `acc * base^e mod m` for `e < 2^k`. It computes the powers of 43_multiply.md R184
and 46_modular.md R263. -/
def powModBits (m : Nat) : (k base e acc : Nat) → Nat
  | 0, _, _, acc => acc
  | k + 1, base, e, acc =>
    powModBits m k (base * base % m) (e / 2) (if e % 2 = 1 then acc * base % m else acc)

/-- `x^e mod m` for a 128-bit exponent, with `x^0 = 1` for every `x`. -/
def powMod (x e m : Nat) : Nat := powModBits m 128 (x % m) e (1 % m)

/-- `MUL rd, rs1, rs2` (43_multiply.md R180). -/
def execMul (rd rs1 rs2 : Reg) (s : State) : Host.Outcome State Fault Refusal :=
  .next (binaryOp mulWord rd rs1 rs2 s)

/-- `MUL64 rd, rs1, rs2`: the small operand is `b.lo`, and `b.hi` is ignored (43_multiply.md R181). -/
def execMul64 (rd rs1 rs2 : Reg) (s : State) : Host.Outcome State Fault Refusal :=
  .next (binaryOp (fun a b => pat ((uVal a * (lo b).toNat : Nat) : Int)) rd rs1 rs2 s)

/-- `SQR rd, rs1`: `pat_128(u(a)^2)` (43_multiply.md R182). -/
def execSqr (rd rs1 : Reg) (s : State) : Host.Outcome State Fault Refusal :=
  .next (unaryOp (fun a => pat ((uVal a ^ 2 : Nat) : Int)) rd rs1 s)

/-- `CUBE rd, rs1`: `pat_128(u(a)^3)` (43_multiply.md R183). -/
def execCube (rd rs1 : Reg) (s : State) : Host.Outcome State Fault Refusal :=
  .next (unaryOp (fun a => pat ((uVal a ^ 3 : Nat) : Int)) rd rs1 s)

/-- `POW rd, rs1, rs2`: DomainError when the exponent, read as signed, is negative; otherwise
`pat_128(u(a)^u(b))` (43_multiply.md R184). -/
def execPow (rd rs1 rs2 : Reg) (s : State) : Host.Outcome State Fault Refusal :=
  .next (if isNeg (s.reg rs2) then s.raise .domainError (encode (.pow rd rs1 rs2))
    else binaryOp (fun a b => pat (powMod (uVal a) (uVal b) (2 ^ 128))) rd rs1 rs2 s)

/-! ## Datapaths -/

/-- The 32-bit digits of a limb: `x0 = x[31:0]`, `x1 = x[63:32]` (00_scope.md R10). -/
def digit0 (x : Limb) : Nat := (x.extractLsb' 0 32).toNat

/-- The high 32-bit digit of a limb (00_scope.md R10). -/
def digit1 (x : Limb) : Nat := (x.extractLsb' 32 32).toNat

/-- 32×32→64, "direct widening multiply, no decomposition needed" (43_multiply.md R186). -/
def mul32 (x y : Nat) : Nat := x * y

/-- 64×64→128: four cross products of digits, carries in 32-bit lanes (43_multiply.md R187). -/
def mul64Path (x y : Limb) : Word :=
  let p00 := mul32 (digit0 x) (digit0 y)
  let p01 := mul32 (digit0 x) (digit1 y)
  let p10 := mul32 (digit1 x) (digit0 y)
  let p11 := mul32 (digit1 x) (digit1 y)
  let mid := p00 / 2 ^ 32 + p01 % 2 ^ 32 + p10 % 2 ^ 32
  ofLimbs (BitVec.ofNat 64 (p11 + p01 / 2 ^ 32 + p10 / 2 ^ 32 + mid / 2 ^ 32))
    (BitVec.ofNat 64 (mid % 2 ^ 32 * 2 ^ 32 + p00 % 2 ^ 32))

/-- 128×128→256 widening: the four limb cross products summed into the 256-bit accumulator `w3 w2 w1
w0` (43_multiply.md R188; 10_state.md R27). -/
def mulWidePath (a b : Word) : BitVec 256 :=
  let p0 := mul64Path (lo a) (lo b)
  let p1 := mul64Path (lo a) (hi b)
  let p2 := mul64Path (hi a) (lo b)
  let p3 := mul64Path (hi a) (hi b)
  let s1 := (hi p0).toNat + (lo p1).toNat + (lo p2).toNat
  let s2 := (hi p1).toNat + (hi p2).toNat + (lo p3).toNat + s1 / 2 ^ 64
  let w0 := lo p0
  let w1 := BitVec.ofNat 64 s1
  let w2 := BitVec.ofNat 64 s2
  let w3 := BitVec.ofNat 64 ((hi p3).toNat + s2 / 2 ^ 64)
  w3 ++ w2 ++ w1 ++ w0

/-- 128×64→128 truncating, the datapath of `MUL64` (43_multiply.md R189). -/
def mul128By64Path (a : Word) (k : Limb) : Word :=
  let p := mul64Path (lo a) k
  ofLimbs (hi p + hi a * k) (lo p)

/-- 128×128→128 truncating, the datapath of `MUL`, `SQR`, `CUBE`, `POW` (43_multiply.md R190). -/
def mul128Path (a b : Word) : Word :=
  let p := mul64Path (lo a) (lo b)
  ofLimbs (hi p + hi a * lo b + lo a * hi b) (lo p)

/-- `CUBE` as two truncating multiplies (43_multiply.md R190). -/
def cubePath (a : Word) : Word := mul128Path (mul128Path a a) a

/-- Square-and-multiply over `k` bits of the exponent, each step the truncating datapath
(43_multiply.md R190). -/
def powPathBits : (k : Nat) → (base : Word) → (e : Nat) → (acc : Word) → Word
  | 0, _, _, acc => acc
  | k + 1, base, e, acc =>
    powPathBits k (mul128Path base base) (e / 2) (if e % 2 = 1 then mul128Path acc base else acc)

/-- The datapath of `POW` for a non-negative exponent (43_multiply.md R190). -/
def powPath (a b : Word) : Word := powPathBits 128 a (uVal b) oneWord

end Sys2Proof.Machine
end

