-- ==== Sys2Proof/Machine/Modular.lean ====
section
/-! DEFINITION. The modular commands (46_modular.md R260 to R264) and the modular unit they agree with
(R265 to R269), with its optional Montgomery path (R279). There are no signed modular commands
(R280). -/

namespace Sys2Proof.Machine

/-! ## Commands: sums, differences, products and powers over the unbounded integers -/

/-- `pat_128((u(a) + u(b)) mod u(m))` (46_modular.md R260). -/
def modAddWord (a b m : Word) : Word := pat (((uVal a + uVal b) % uVal m : Nat) : Int)

/-- `pat_128((u(a) - u(b)) mod u(m))`, the non-negative residue (46_modular.md R261): the integer
remainder by a positive modulus is taken in `[0, u(m))`. -/
def modSubWord (a b m : Word) : Word := pat (((uVal a : Int) - uVal b) % (uVal m : Int))

/-- `pat_128((u(a) * u(b)) mod u(m))`, the product exact (46_modular.md R262). -/
def modMulWord (a b m : Word) : Word := pat ((uVal a * uVal b % uVal m : Nat) : Int)

/-- `pat_128((u(a)^u(b)) mod u(m))` with `x^0 = 1` (46_modular.md R263). -/
def modPowWord (a b m : Word) : Word := pat (powMod (uVal a) (uVal b) (uVal m))

/-- `U.MODADD rd, rs1, rs2, rs3` (46_modular.md R260). -/
def execUModAdd (rd rs1 rs2 rs3 : Reg) (s : State) : Host.Outcome State Fault Refusal :=
  .next (if isZero (s.reg rs3) then s.raise .divideByZero (encode (.uModAdd rd rs1 rs2 rs3))
    else ternaryOp modAddWord rd rs1 rs2 rs3 s)

/-- `U.MODSUB rd, rs1, rs2, rs3` (46_modular.md R261). -/
def execUModSub (rd rs1 rs2 rs3 : Reg) (s : State) : Host.Outcome State Fault Refusal :=
  .next (if isZero (s.reg rs3) then s.raise .divideByZero (encode (.uModSub rd rs1 rs2 rs3))
    else ternaryOp modSubWord rd rs1 rs2 rs3 s)

/-- `U.MODMUL rd, rs1, rs2, rs3` (46_modular.md R262). -/
def execUModMul (rd rs1 rs2 rs3 : Reg) (s : State) : Host.Outcome State Fault Refusal :=
  .next (if isZero (s.reg rs3) then s.raise .divideByZero (encode (.uModMul rd rs1 rs2 rs3))
    else ternaryOp modMulWord rd rs1 rs2 rs3 s)

/-- `U.MODPOW rd, rs1, rs2, rs3`: the exponent is all 128 bits of `q[rs2]`, unsigned (46_modular.md
R263). -/
def execUModPow (rd rs1 rs2 rs3 : Reg) (s : State) : Host.Outcome State Fault Refusal :=
  .next (if isZero (s.reg rs3) then s.raise .divideByZero (encode (.uModPow rd rs1 rs2 rs3))
    else ternaryOp modPowWord rd rs1 rs2 rs3 s)

/-! ## The modular unit -/

/-- The remainder of the division engine (44_divide.md R218); the unit never calls it with a zero
divisor. -/
def engineRemainder (a m : Word) : Word :=
  match divisionEngine a m with
  | some p => p.2
  | none => a

/-- Operand pre-reduction: an operand not already below the modulus is replaced by its remainder
(46_modular.md R265). -/
def preReduce (a m : Word) : Word := if uVal a < uVal m then a else engineRemainder a m

/-- `ModAdd` of reduced operands: one sum, one conditional correction found by a wraparound comparison
(46_modular.md R267). -/
def modAddReduced (a b m : Word) : Word :=
  let sum := adderPath a b
  if uVal sum < uVal a ∨ uVal sum ≥ uVal m then subtractorPath sum m else sum

/-- `ModSub` of reduced operands (46_modular.md R268). -/
def modSubReduced (a b m : Word) : Word :=
  let difference := subtractorPath a b
  if uVal a < uVal b then adderPath difference m else difference

/-- `ModMul` of reduced operands: a 64-bit modulus takes the 128-bit product, a wider one the 256-bit
accumulator and Algorithm D on eight digits (46_modular.md R266). -/
def modMulReduced (a b m : Word) : Word :=
  if hi m = 0 then engineRemainder (mul64Path (lo a) (lo b)) m
  else BitVec.ofNat 128 (knuthPath 8 (mulWidePath a b).toNat (uVal m)).2

/-- One limb of the exponent, least significant bit first: the pair of accumulator and base after `k`
bits (46_modular.md R269). -/
def modPowLimb (mul : Word → Word → Word) : (k e : Nat) → Word × Word → Word × Word
  | 0, _, p => p
  | k + 1, e, p =>
    modPowLimb mul k (e / 2) (if e % 2 = 1 then mul p.1 p.2 else p.1, mul p.2 p.2)

/-- The exponent's low limb, then its high limb when that is not zero (46_modular.md R269). -/
def modPowLoop (mul : Word → Word → Word) (one base e : Word) : Word :=
  let p := modPowLimb mul 64 (lo e).toNat (one, base)
  if hi e = 0 then p.1 else (modPowLimb mul 64 (hi e).toNat p).1

/-! ### Montgomery reduction (46_modular.md R279) -/

/-- `n' = (-(N.lo)^(-1)) mod 2^64` for odd `N.lo`, by Newton's iteration on the inverse, each step of
which doubles the correct low bits. How the inverse is found is not in the source (DESIGN CHOICE, log
16). -/
def montgomeryInverse (n : Limb) : Limb :=
  let better := fun (x : Limb) => x * (2 - n * x)
  let inverse := better (better (better (better (better n))))
  0 - inverse

/-- One round of REDC: make limb `i` of `t` zero by adding a multiple of `N` (46_modular.md R279). -/
def redcRound (n t i : Nat) : Nat :=
  let limb := t / 2 ^ (64 * i) % 2 ^ 64
  let mi := limb * (montgomeryInverse (BitVec.ofNat 64 n)).toNat % 2 ^ 64
  t + mi * n * 2 ^ (64 * i)

/-- `REDC(T)` for odd `N` and `T < N * 2^128`: two rounds, the division by `2^128`, and "the
conditional final subtraction" (46_modular.md R279). -/
def redc (n t : Nat) : Nat :=
  let t' := redcRound n (redcRound n t 0) 1 / 2 ^ 128
  if t' ≥ n then t' - n else t'

/-- The product of two values in Montgomery form, `REDC(mulw(x, y))` (46_modular.md R279). -/
def montgomeryMul (m x y : Word) : Word := BitVec.ofNat 128 (redc (uVal m) (mulWidePath x y).toNat)

/-- The Montgomery form `x * 2^128 mod N`. The conversions into and out of the form are not in the
source (DESIGN CHOICE, log 16). -/
def toMontgomery (m x : Word) : Word := BitVec.ofNat 128 (uVal x * 2 ^ 128 % uVal m)

/-- Out of the Montgomery form: `REDC` of the value itself. -/
def fromMontgomery (m x : Word) : Word := BitVec.ofNat 128 (redc (uVal m) (uVal x))

/-- The unit's `ModPow` of a reduced base: the plain loop, or the Montgomery loop when
`cfg.useMontgomery` holds and the modulus is odd (46_modular.md R269, R279). -/
def modPowReduced (useMontgomery : Bool) (a e m : Word) : Word :=
  let one := engineRemainder oneWord m
  if useMontgomery ∧ uVal m % 2 = 1 then
    fromMontgomery m
      (modPowLoop (montgomeryMul m) (toMontgomery m one) (toMontgomery m a) e)
  else modPowLoop (fun x y => modMulReduced x y m) one a e

/-- The modular unit on operands of any size, for a non-zero modulus (46_modular.md R265 to R269). -/
def modAddUnit (a b m : Word) : Word := modAddReduced (preReduce a m) (preReduce b m) m

/-- The unit's subtraction (46_modular.md R265, R268). -/
def modSubUnit (a b m : Word) : Word := modSubReduced (preReduce a m) (preReduce b m) m

/-- The unit's multiplication (46_modular.md R265, R266). -/
def modMulUnit (a b m : Word) : Word := modMulReduced (preReduce a m) (preReduce b m) m

/-- The unit's power; the exponent is never reduced (46_modular.md R265, R269, R279). -/
def modPowUnit (useMontgomery : Bool) (a e m : Word) : Word :=
  modPowReduced useMontgomery (preReduce a m) e m

end Sys2Proof.Machine
end

