-- ==== Sys2Proof/Machine/Convert.lean ====
section
/-! DEFINITION. The two conversion functions of the configuration, `cfg.f64ToU128` and
`cfg.u128ToF64`: what properties FP1 and FP3 fix is computed here, what FP2 and FP4 leave
unconstrained is the free part of Config.lean (40_representation_conversion.md R103 to R105). -/

namespace Sys2Proof.Machine

/-! The binary64 layout of a pattern (40_representation_conversion.md R103). -/

/-- The sign bit, `p[63]`. -/
def f64Sign (p : Limb) : Bool := p.getLsbD 63

/-- The biased exponent, `p[62:52]` (bias 1023). -/
def f64Exponent (p : Limb) : Nat := (p.extractLsb' 52 11).toNat

/-- The fraction, `p[51:0]`. -/
def f64Fraction (p : Limb) : Nat := (p.extractLsb' 0 52).toNat

/-- The magnitude of a pattern when it is a finite integer: for an exponent field `e` in 1..2046 the
magnitude is `(2^52 + fraction) * 2^(e - 1075)`; exponent field 0 is zero or a subnormal (not an
integer); 2047 is infinity or NaN (40_representation_conversion.md R103). -/
def f64Integer (p : Limb) : Option Nat :=
  let e := f64Exponent p
  let m := 2 ^ 52 + f64Fraction p
  if e = 0 then (if f64Fraction p = 0 then some 0 else none)
  else if e = 2047 then none
  else if 1075 ≤ e then some (m * 2 ^ (e - 1075))
  else if m % 2 ^ (1075 - e) = 0 then some (m / 2 ^ (1075 - e))
  else none

/-- The integer that property FP1 gives for a pattern: sign bit clear, a finite integer below `2^64`
(40_representation_conversion.md R104, with the bound read as strict, 90_conflicts.md C2). -/
def f64SmallNatural (p : Limb) : Option Nat :=
  if f64Sign p then none
  else
    match f64Integer p with
    | some n => if n < 2 ^ 64 then some n else none
    | none => none

/-- `cfg.f64ToU128`: FP1 where it applies, otherwise the unconstrained value of FP2, a function of
the pattern alone (40_representation_conversion.md R104; log 7). -/
def f64ToU128 (p : Limb) : Word :=
  match f64SmallNatural p with
  | some n => pat n
  | none => Config.f64ToU128Free p

/-- The number of significant bits of a value, `bitlen - tz` (40_representation_conversion.md R105). -/
def significantBits (n : Nat) : Nat := bitlen n - trailingZeros 128 n

/-- The binary64 pattern of a positive integer of at most 53 significant bits:
`((e + 1023) << 52) | (((n * 2^52) div 2^e) - 2^52)` with `e = bitlen(n) - 1`
(40_representation_conversion.md R105). -/
def f64OfExact (n : Nat) : Limb :=
  let e := bitlen n - 1
  BitVec.ofNat 64 ((e + 1023) <<< 52 ||| (n * 2 ^ 52 / 2 ^ e - 2 ^ 52))

/-- `cfg.u128ToF64`: FP3 where it applies (zero, and values of at most 53 significant bits), otherwise
the unconstrained value of FP4, a function of the value alone (40_representation_conversion.md R105;
log 8). -/
def u128ToF64 (v : Word) : Limb :=
  if uVal v = 0 then 0
  else if significantBits (uVal v) ≤ 53 then f64OfExact (uVal v)
  else Config.u128ToF64Free v

end Sys2Proof.Machine
end

