-- ==== Sys2Proof/Machine/Representation.lean ====
section
/-! DEFINITION. `NOP` (30_encoding.md R76) and the constant, move, widening and floating-point
conversion commands (40_representation_conversion.md). -/

namespace Sys2Proof.Machine

/-- `NOP`: writes no register, sets no flag, raises no fault (30_encoding.md R76). -/
def execNop (s : State) : Host.Outcome State Fault Refusal := .next s

/-- The constant that a selector of `LDC` names, none for a selector of 5 or more
(40_representation_conversion.md R92). -/
def constant (k : BitVec 8) : Option Word :=
  match k.toNat with
  | 0 => some zeroWord
  | 1 => some oneWord
  | 2 => some maxWord
  | 3 => some sMinWord
  | 4 => some sMaxWord
  | _ => none

/-- `LDC rd, k` (40_representation_conversion.md R92). A selector of 5 or more is no legal word; the
rule's `otherwise` case raises IllegalCommand (log 10). -/
def execLdc (rd : Reg) (k : BitVec 8) (s : State) : Host.Outcome State Fault Refusal :=
  .next (match constant k with
    | some v => s.setReg rd v
    | none => s.raise .illegalCommand (encode (.ldc rd k)))

/-- `MOV rd, rs1`, MDT's unary `+` (40_representation_conversion.md R93). -/
def execMov (rd rs1 : Reg) (s : State) : Host.Outcome State Fault Refusal :=
  .next (unaryOp (fun a => a) rd rs1 s)

/-- `ZEXT8 rd, rs1` (40_representation_conversion.md R94). -/
def execZext8 (rd rs1 : Reg) (s : State) : Host.Outcome State Fault Refusal :=
  .next (unaryOp (zextLow 8) rd rs1 s)

/-- `ZEXT16 rd, rs1` (40_representation_conversion.md R95). -/
def execZext16 (rd rs1 : Reg) (s : State) : Host.Outcome State Fault Refusal :=
  .next (unaryOp (zextLow 16) rd rs1 s)

/-- `ZEXT32 rd, rs1` (40_representation_conversion.md R96). -/
def execZext32 (rd rs1 : Reg) (s : State) : Host.Outcome State Fault Refusal :=
  .next (unaryOp (zextLow 32) rd rs1 s)

/-- `ZEXT64 rd, rs1` (40_representation_conversion.md R97). -/
def execZext64 (rd rs1 : Reg) (s : State) : Host.Outcome State Fault Refusal :=
  .next (unaryOp (zextLow 64) rd rs1 s)

/-- `SEXT8 rd, rs1` (40_representation_conversion.md R98). -/
def execSext8 (rd rs1 : Reg) (s : State) : Host.Outcome State Fault Refusal :=
  .next (unaryOp (sextLow 8) rd rs1 s)

/-- `SEXT16 rd, rs1` (40_representation_conversion.md R99). -/
def execSext16 (rd rs1 : Reg) (s : State) : Host.Outcome State Fault Refusal :=
  .next (unaryOp (sextLow 16) rd rs1 s)

/-- `SEXT32 rd, rs1` (40_representation_conversion.md R100). -/
def execSext32 (rd rs1 : Reg) (s : State) : Host.Outcome State Fault Refusal :=
  .next (unaryOp (sextLow 32) rd rs1 s)

/-- `SEXT64 rd, rs1`: plain sign extension of `a.lo` (40_representation_conversion.md R101,
90_conflicts.md C4). -/
def execSext64 (rd rs1 : Reg) (s : State) : Host.Outcome State Fault Refusal :=
  .next (unaryOp (sextLow 64) rd rs1 s)

/-- `CVT.U.F64 rd, rs1`: double to unsigned; `a.hi` is ignored (40_representation_conversion.md R107). -/
def execCvtUF64 (rd rs1 : Reg) (s : State) : Host.Outcome State Fault Refusal :=
  .next (unaryOp (fun a => f64ToU128 (lo a)) rd rs1 s)

/-- `CVT.F64.U rd, rs1`: unsigned to double in `lo`, `hi` written 0 (40_representation_conversion.md
R106). -/
def execCvtF64U (rd rs1 : Reg) (s : State) : Host.Outcome State Fault Refusal :=
  .next (unaryOp (fun a => ofLimbs 0 (u128ToF64 a)) rd rs1 s)

/-- Double to signed: the unsigned conversion of the magnitude, then the sign
(40_representation_conversion.md R109). -/
def f64ToS128 (p : Limb) : Word :=
  let v := f64ToU128 (p &&& 0x7FFFFFFFFFFFFFFF)
  if f64Sign p then neg v else v

/-- `CVT.S.F64 rd, rs1` (40_representation_conversion.md R109). -/
def execCvtSF64 (rd rs1 : Reg) (s : State) : Host.Outcome State Fault Refusal :=
  .next (unaryOp (fun a => f64ToS128 (lo a)) rd rs1 s)

/-- Signed to double: the unsigned conversion of the magnitude, then the sign bit
(40_representation_conversion.md R108). -/
def s128ToF64 (a : Word) : Limb :=
  let f := u128ToF64 (mag a)
  if isNeg a then f ||| 0x8000000000000000 else f

/-- `CVT.F64.S rd, rs1` (40_representation_conversion.md R108). -/
def execCvtF64S (rd rs1 : Reg) (s : State) : Host.Outcome State Fault Refusal :=
  .next (unaryOp (fun a => ofLimbs 0 (s128ToF64 a)) rd rs1 s)

end Sys2Proof.Machine
end

