-- ==== Sys2Proof/Machine/Roots.lean ====
section
/-! DEFINITION. The integer square-root and cube-root commands (48_roots.md R330 to R334, R340 to R343)
and the root units they agree with (R335 to R339). -/

namespace Sys2Proof.Machine

/-! ## Commands -/

/-- The largest `r` that agrees with `r0` above bit `k` and has `r^p ≤ n`: the root is found bit by bit
from bit `k - 1` down. -/
def floorRootBits (p n : Nat) : (k r : Nat) → Nat
  | 0, r => r
  | k + 1, r => floorRootBits p n k (if (r + 2 ^ k) ^ p ≤ n then r + 2 ^ k else r)

/-- The integer `r` with `r^2 ≤ n < (r + 1)^2`, for `n < 2^128` (48_roots.md R330). -/
def floorSqrt (n : Nat) : Nat := floorRootBits 2 n 64 0

/-- The integer `r` with `r^3 ≤ n < (r + 1)^3`, for `n < 2^128` (48_roots.md R332). -/
def floorCbrt (n : Nat) : Nat := floorRootBits 3 n 43 0

/-- The ceiling root from the floor root `f`: `f + (f^2 ≠ n ? 1 : 0)` (48_roots.md R331). -/
def ceilSqrt (n : Nat) : Nat := floorSqrt n + if floorSqrt n ^ 2 = n then 0 else 1

/-- The ceiling cube root: `f + (f^3 ≠ n ? 1 : 0)` (48_roots.md R333). -/
def ceilCbrt (n : Nat) : Nat := floorCbrt n + if floorCbrt n ^ 3 = n then 0 else 1

/-- A root as a function of patterns. -/
def rootWord (root : Nat → Nat) (a : Word) : Word := pat (root (uVal a))

/-- `U.FSQRT rd, rs1` (48_roots.md R330). -/
def execUFsqrt (rd rs1 : Reg) (s : State) : Host.Outcome State Fault Refusal :=
  .next (unaryOp (rootWord floorSqrt) rd rs1 s)

/-- `U.CSQRT rd, rs1` (48_roots.md R331). -/
def execUCsqrt (rd rs1 : Reg) (s : State) : Host.Outcome State Fault Refusal :=
  .next (unaryOp (rootWord ceilSqrt) rd rs1 s)

/-- `U.FCBRT rd, rs1` (48_roots.md R332). -/
def execUFcbrt (rd rs1 : Reg) (s : State) : Host.Outcome State Fault Refusal :=
  .next (unaryOp (rootWord floorCbrt) rd rs1 s)

/-- `U.CCBRT rd, rs1` (48_roots.md R333). -/
def execUCcbrt (rd rs1 : Reg) (s : State) : Host.Outcome State Fault Refusal :=
  .next (unaryOp (rootWord ceilCbrt) rd rs1 s)

/-- `S.FSQRT rd, rs1`: DomainError when the operand is negative (48_roots.md R340). -/
def execSFsqrt (rd rs1 : Reg) (s : State) : Host.Outcome State Fault Refusal :=
  .next (if isNeg (s.reg rs1) then s.raise .domainError (encode (.sFsqrt rd rs1))
    else unaryOp (rootWord floorSqrt) rd rs1 s)

/-- `S.CSQRT rd, rs1`: DomainError when the operand is negative (48_roots.md R341). -/
def execSCsqrt (rd rs1 : Reg) (s : State) : Host.Outcome State Fault Refusal :=
  .next (if isNeg (s.reg rs1) then s.raise .domainError (encode (.sCsqrt rd rs1))
    else unaryOp (rootWord ceilSqrt) rd rs1 s)

/-- `S.FCBRT rd, rs1`: DomainError when the operand is negative (48_roots.md R342, 90_conflicts.md
C8). -/
def execSFcbrt (rd rs1 : Reg) (s : State) : Host.Outcome State Fault Refusal :=
  .next (if isNeg (s.reg rs1) then s.raise .domainError (encode (.sFcbrt rd rs1))
    else unaryOp (rootWord floorCbrt) rd rs1 s)

/-- `S.CCBRT rd, rs1`: DomainError when the operand is negative (48_roots.md R343). -/
def execSCcbrt (rd rs1 : Reg) (s : State) : Host.Outcome State Fault Refusal :=
  .next (if isNeg (s.reg rs1) then s.raise .domainError (encode (.sCcbrt rd rs1))
    else unaryOp (rootWord ceilCbrt) rd rs1 s)

/-! ## The root units

The floating-point seed is internal and unobservable, so it is an argument here (log 18). -/

/-- The small-operand path: a seed corrected by at most one unit with exact squares (48_roots.md R335). -/
def sqrtCorrect (a seed : Nat) : Nat :=
  if seed ^ 2 > a then seed - 1 else if (seed + 1) ^ 2 ≤ a then seed + 1 else seed

/-- The Newton-Raphson path: `s_next = (a/s + s) / 2` until the iterates stop decreasing, then the
lower of the last two (48_roots.md R336). The iterates decrease, so a fuel of `s` never runs out. -/
def newtonSqrt (a : Nat) : (fuel s : Nat) → Nat
  | 0, s => s
  | fuel + 1, s =>
    let t := (a / s + s) / 2
    if t ≥ s then s else newtonSqrt a fuel t

/-- The square-root unit on its Newton path, from a seed (48_roots.md R336). -/
def newtonSqrtUnit (a seed : Nat) : Nat := newtonSqrt a seed seed

/-- The ceiling root from a floor root by one exact square (48_roots.md R337). -/
def ceilFromFloorSqrt (a f : Nat) : Nat := if f ^ 2 = a then f else f + 1

/-- The downward loop of the cube-root unit: "seed too high" (48_roots.md R338). -/
def cbrtDown (a : Nat) : (s : Nat) → Nat
  | 0 => 0
  | s + 1 => if (s + 1) ^ 3 > a then cbrtDown a s else s + 1

/-- The upward loop: `(s+1)^3 - s^3 = 3s(s+1) + 1` decides each step, with `c = s^3` (48_roots.md
R338). -/
def cbrtUp (a : Nat) : (fuel s c : Nat) → Nat
  | 0, s, _ => s
  | fuel + 1, s, c =>
    if a - c ≥ 3 * s * (s + 1) + 1 then cbrtUp a fuel (s + 1) (c + 3 * s * (s + 1) + 1) else s

/-- The floor result of the cube-root unit from a seed (48_roots.md R338). A root is below `2^43`, so
that many upward steps suffice. -/
def cbrtUnit (a seed : Nat) : Nat :=
  let s := cbrtDown a seed
  cbrtUp a (2 ^ 43) s (s ^ 3)

/-- The ceiling result of the cube-root unit (48_roots.md R338). -/
def ceilFromFloorCbrt (a f : Nat) : Nat := if f ^ 3 = a then f else f + 1

end Sys2Proof.Machine
end

