-- ==== Sys2Proof/Machine/Shift.lean ====
section
/-! DEFINITION. The shift commands (41_bitwise_shift_compare.md R125 to R134) and the limb-level shift
paths they agree with (R129, R130). -/

namespace Sys2Proof.Machine

/-! ## Shifts by an amount in range (41_bitwise_shift_compare.md R126 to R128, R132 to R134) -/

/-- Left shift: `pat_128(u(a) * 2^d)` (R126). -/
def shiftLeft (a : Word) (d : Nat) : Word := pat ((uVal a * 2 ^ d : Nat) : Int)

/-- Logical right shift: `pat_128(u(a) div 2^d)` (R127). -/
def shiftRight (a : Word) (d : Nat) : Word := pat ((uVal a / 2 ^ d : Nat) : Int)

/-- Arithmetic right shift: `pat_128(floor(s(a) / 2^d))` (R128); the integer division by a positive
number rounds toward minus infinity. -/
def shiftArith (a : Word) (d : Nat) : Word := pat (sVal a / 2 ^ d)

/-- A shift by a register: the amount is the whole unsigned value of `q[rs2]` (R125); at 128 or more
the result is the unconstrained `cfg.shiftDraw(opcode, a, b)`, with no fault (R131; log 6). -/
def shiftByReg (op : BitVec 8) (f : Word → Nat → Word) (a b : Word) : Word :=
  if uVal b < 128 then f a (uVal b) else Config.shiftDraw op a b

/-- `SHL rd, rs1, rs2` (41_bitwise_shift_compare.md R126). -/
def execShl (rd rs1 rs2 : Reg) (s : State) : Host.Outcome State Fault Refusal :=
  .next (binaryOp (shiftByReg 0x24 shiftLeft) rd rs1 rs2 s)

/-- `SHR rd, rs1, rs2` (41_bitwise_shift_compare.md R127). -/
def execShr (rd rs1 rs2 : Reg) (s : State) : Host.Outcome State Fault Refusal :=
  .next (binaryOp (shiftByReg 0x25 shiftRight) rd rs1 rs2 s)

/-- `SAR rd, rs1, rs2` (41_bitwise_shift_compare.md R128). -/
def execSar (rd rs1 rs2 : Reg) (s : State) : Host.Outcome State Fault Refusal :=
  .next (binaryOp (shiftByReg 0x26 shiftArith) rd rs1 rs2 s)

/-- `SHLI rd, rs1, shamt` (41_bitwise_shift_compare.md R132). -/
def execShli (rd rs1 : Reg) (shamt : BitVec 7) (s : State) : Host.Outcome State Fault Refusal :=
  .next (unaryOp (fun a => shiftLeft a shamt.toNat) rd rs1 s)

/-- `SHRI rd, rs1, shamt` (41_bitwise_shift_compare.md R133). -/
def execShri (rd rs1 : Reg) (shamt : BitVec 7) (s : State) : Host.Outcome State Fault Refusal :=
  .next (unaryOp (fun a => shiftRight a shamt.toNat) rd rs1 s)

/-- `SARI rd, rs1, shamt` (41_bitwise_shift_compare.md R134). -/
def execSari (rd rs1 : Reg) (shamt : BitVec 7) (s : State) : Host.Outcome State Fault Refusal :=
  .next (unaryOp (fun a => shiftArith a shamt.toNat) rd rs1 s)

/-! ## The shift paths (41_bitwise_shift_compare.md R129, R130) -/

/-- The left-shift path: one folded cross-limb term below 64, limb relocation from 64 on. -/
def shiftLeftPath (a : Word) (d : Nat) : Word :=
  if d = 0 then a
  else if d < 64 then ofLimbs ((hi a <<< d) ||| (lo a >>> (64 - d))) (lo a <<< d)
  else ofLimbs (lo a <<< (d - 64)) 0

/-- The logical right-shift path. -/
def shiftRightPath (a : Word) (d : Nat) : Word :=
  if d = 0 then a
  else if d < 64 then ofLimbs (hi a >>> d) ((lo a >>> d) ||| (hi a <<< (64 - d)))
  else ofLimbs 0 (hi a >>> (d - 64))

/-- The arithmetic right-shift path; `s64` reads the high limb as signed. -/
def shiftArithPath (a : Word) (d : Nat) : Word :=
  if d = 0 then a
  else if d < 64 then
    ofLimbs (pat64 (s64 (hi a) / 2 ^ d)) ((lo a >>> d) ||| (hi a <<< (64 - d)))
  else ofLimbs (if isNeg a then 0xFFFFFFFFFFFFFFFF else 0) (pat64 (s64 (hi a) / 2 ^ (d - 64)))

end Sys2Proof.Machine
end

