-- ==== Sys2Proof/Machine/Signed.lean ====
section
/-! DEFINITION. The signed multiply, divide, remainder and absolute value commands: the sign-handling
wrapper over the unsigned operations (47_signed.md R290, R291, R300 to R306). Results that do not fit
wrap silently (R306). Signed comparisons are in Compare.lean, signed roots in Roots.lean. -/

namespace Sys2Proof.Machine

/-- Negate a result when the combined sign is negative (47_signed.md R290). -/
def withSign (negative : Bool) (v : Word) : Word := if negative then neg v else v

/-- The signed product: the product of the magnitudes, negated when the signs differ (47_signed.md
R300). -/
def smulWord (a b : Word) : Word := withSign (isNeg a ^^ isNeg b) (mulWord (mag a) (mag b))

/-- The signed quotient, truncated toward zero (47_signed.md R301). -/
def sdivWord (a b : Word) : Word := withSign (isNeg a ^^ isNeg b) (udivWord (mag a) (mag b))

/-- The signed remainder, with the sign of the dividend (47_signed.md R302). -/
def sremWord (a b : Word) : Word := withSign (isNeg a) (uremWord (mag a) (mag b))

/-- `S.MUL rd, rs1, rs2` (47_signed.md R300). -/
def execSMul (rd rs1 rs2 : Reg) (s : State) : Host.Outcome State Fault Refusal :=
  .next (binaryOp smulWord rd rs1 rs2 s)

/-- `S.DIV rd, rs1, rs2` (47_signed.md R301). -/
def execSDiv (rd rs1 rs2 : Reg) (s : State) : Host.Outcome State Fault Refusal :=
  .next (if isZero (s.reg rs2) then s.raise .divideByZero (encode (.sDiv rd rs1 rs2))
    else binaryOp sdivWord rd rs1 rs2 s)

/-- `S.REM rd, rs1, rs2` (47_signed.md R302). -/
def execSRem (rd rs1 rs2 : Reg) (s : State) : Host.Outcome State Fault Refusal :=
  .next (if isZero (s.reg rs2) then s.raise .divideByZero (encode (.sRem rd rs1 rs2))
    else binaryOp sremWord rd rs1 rs2 s)

/-- `S.DIVREM rd, rd2, rs1, rs2` (47_signed.md R303); `rd = rd2` is IllegalCommand (30_encoding.md
R68; log 10). -/
def execSDivRem (rd rd2 rs1 rs2 : Reg) (s : State) : Host.Outcome State Fault Refusal :=
  .next (if rd = rd2 then s.raise .illegalCommand (encode (.sDivRem rd rd2 rs1 rs2))
    else if isZero (s.reg rs2) then s.raise .divideByZero (encode (.sDivRem rd rd2 rs1 rs2))
    else pairOp sdivWord sremWord rd rd2 rs1 rs2 s)

/-- `S.ABS rd, rs1`: the magnitude pattern; `MinValue` stays (47_signed.md R304). -/
def execSAbs (rd rs1 : Reg) (s : State) : Host.Outcome State Fault Refusal :=
  .next (unaryOp mag rd rs1 s)

end Sys2Proof.Machine
end

