-- ==== Sys2Proof/Machine/Dispatch.lean ====
section
/-! DEFINITION. The dispatch of a decoded command to its meaning: one arm per row of the opcode map
(30_encoding.md R70). -/

namespace Sys2Proof.Machine

def exec (i : Instr) (s : State) : Host.Outcome State Fault Refusal :=
  match i with
  | .nop => Sys2Proof.Machine.execNop s
  | .ldc rd k => Sys2Proof.Machine.execLdc rd k s
  | .mov rd rs1 => Sys2Proof.Machine.execMov rd rs1 s
  | .zext8 rd rs1 => Sys2Proof.Machine.execZext8 rd rs1 s
  | .zext16 rd rs1 => Sys2Proof.Machine.execZext16 rd rs1 s
  | .zext32 rd rs1 => Sys2Proof.Machine.execZext32 rd rs1 s
  | .zext64 rd rs1 => Sys2Proof.Machine.execZext64 rd rs1 s
  | .sext8 rd rs1 => Sys2Proof.Machine.execSext8 rd rs1 s
  | .sext16 rd rs1 => Sys2Proof.Machine.execSext16 rd rs1 s
  | .sext32 rd rs1 => Sys2Proof.Machine.execSext32 rd rs1 s
  | .sext64 rd rs1 => Sys2Proof.Machine.execSext64 rd rs1 s
  | .cvtUF64 rd rs1 => Sys2Proof.Machine.execCvtUF64 rd rs1 s
  | .cvtF64U rd rs1 => Sys2Proof.Machine.execCvtF64U rd rs1 s
  | .cvtSF64 rd rs1 => Sys2Proof.Machine.execCvtSF64 rd rs1 s
  | .cvtF64S rd rs1 => Sys2Proof.Machine.execCvtF64S rd rs1 s
  | .and rd rs1 rs2 => Sys2Proof.Machine.execAnd rd rs1 rs2 s
  | .or rd rs1 rs2 => Sys2Proof.Machine.execOr rd rs1 rs2 s
  | .xor rd rs1 rs2 => Sys2Proof.Machine.execXor rd rs1 rs2 s
  | .not rd rs1 => Sys2Proof.Machine.execNot rd rs1 s
  | .shl rd rs1 rs2 => Sys2Proof.Machine.execShl rd rs1 rs2 s
  | .shr rd rs1 rs2 => Sys2Proof.Machine.execShr rd rs1 rs2 s
  | .sar rd rs1 rs2 => Sys2Proof.Machine.execSar rd rs1 rs2 s
  | .shli rd rs1 shamt => Sys2Proof.Machine.execShli rd rs1 shamt s
  | .shri rd rs1 shamt => Sys2Proof.Machine.execShri rd rs1 shamt s
  | .sari rd rs1 shamt => Sys2Proof.Machine.execSari rd rs1 shamt s
  | .eq rd rs1 rs2 => Sys2Proof.Machine.execEq rd rs1 rs2 s
  | .ne rd rs1 rs2 => Sys2Proof.Machine.execNe rd rs1 rs2 s
  | .uLt rd rs1 rs2 => Sys2Proof.Machine.execULt rd rs1 rs2 s
  | .uLe rd rs1 rs2 => Sys2Proof.Machine.execULe rd rs1 rs2 s
  | .uGt rd rs1 rs2 => Sys2Proof.Machine.execUGt rd rs1 rs2 s
  | .uGe rd rs1 rs2 => Sys2Proof.Machine.execUGe rd rs1 rs2 s
  | .uCmp rd rs1 rs2 => Sys2Proof.Machine.execUCmp rd rs1 rs2 s
  | .uMin rd rs1 rs2 => Sys2Proof.Machine.execUMin rd rs1 rs2 s
  | .uMax rd rs1 rs2 => Sys2Proof.Machine.execUMax rd rs1 rs2 s
  | .sLt rd rs1 rs2 => Sys2Proof.Machine.execSLt rd rs1 rs2 s
  | .sLe rd rs1 rs2 => Sys2Proof.Machine.execSLe rd rs1 rs2 s
  | .sGt rd rs1 rs2 => Sys2Proof.Machine.execSGt rd rs1 rs2 s
  | .sGe rd rs1 rs2 => Sys2Proof.Machine.execSGe rd rs1 rs2 s
  | .sCmp rd rs1 rs2 => Sys2Proof.Machine.execSCmp rd rs1 rs2 s
  | .sMin rd rs1 rs2 => Sys2Proof.Machine.execSMin rd rs1 rs2 s
  | .sMax rd rs1 rs2 => Sys2Proof.Machine.execSMax rd rs1 rs2 s
  | .add rd rs1 rs2 => Sys2Proof.Machine.execAdd rd rs1 rs2 s
  | .sub rd rs1 rs2 => Sys2Proof.Machine.execSub rd rs1 rs2 s
  | .neg rd rs1 => Sys2Proof.Machine.execNeg rd rs1 s
  | .inc rd rs1 => Sys2Proof.Machine.execInc rd rs1 s
  | .dec rd rs1 => Sys2Proof.Machine.execDec rd rs1 s
  | .mul rd rs1 rs2 => Sys2Proof.Machine.execMul rd rs1 rs2 s
  | .mul64 rd rs1 rs2 => Sys2Proof.Machine.execMul64 rd rs1 rs2 s
  | .sqr rd rs1 => Sys2Proof.Machine.execSqr rd rs1 s
  | .cube rd rs1 => Sys2Proof.Machine.execCube rd rs1 s
  | .pow rd rs1 rs2 => Sys2Proof.Machine.execPow rd rs1 rs2 s
  | .uDiv rd rs1 rs2 => Sys2Proof.Machine.execUDiv rd rs1 rs2 s
  | .uRem rd rs1 rs2 => Sys2Proof.Machine.execURem rd rs1 rs2 s
  | .uDivRem rd rd2 rs1 rs2 => Sys2Proof.Machine.execUDivRem rd rd2 rs1 rs2 s
  | .sMul rd rs1 rs2 => Sys2Proof.Machine.execSMul rd rs1 rs2 s
  | .sDiv rd rs1 rs2 => Sys2Proof.Machine.execSDiv rd rs1 rs2 s
  | .sRem rd rs1 rs2 => Sys2Proof.Machine.execSRem rd rs1 rs2 s
  | .sDivRem rd rd2 rs1 rs2 => Sys2Proof.Machine.execSDivRem rd rd2 rs1 rs2 s
  | .sAbs rd rs1 => Sys2Proof.Machine.execSAbs rd rs1 s
  | .sFsqrt rd rs1 => Sys2Proof.Machine.execSFsqrt rd rs1 s
  | .sCsqrt rd rs1 => Sys2Proof.Machine.execSCsqrt rd rs1 s
  | .sFcbrt rd rs1 => Sys2Proof.Machine.execSFcbrt rd rs1 s
  | .sCcbrt rd rs1 => Sys2Proof.Machine.execSCcbrt rd rs1 s
  | .uGcd rd rs1 rs2 => Sys2Proof.Machine.execUGcd rd rs1 rs2 s
  | .uModAdd rd rs1 rs2 rs3 => Sys2Proof.Machine.execUModAdd rd rs1 rs2 rs3 s
  | .uModSub rd rs1 rs2 rs3 => Sys2Proof.Machine.execUModSub rd rs1 rs2 rs3 s
  | .uModMul rd rs1 rs2 rs3 => Sys2Proof.Machine.execUModMul rd rs1 rs2 rs3 s
  | .uModPow rd rs1 rs2 rs3 => Sys2Proof.Machine.execUModPow rd rs1 rs2 rs3 s
  | .uFsqrt rd rs1 => Sys2Proof.Machine.execUFsqrt rd rs1 s
  | .uCsqrt rd rs1 => Sys2Proof.Machine.execUCsqrt rd rs1 s
  | .uFcbrt rd rs1 => Sys2Proof.Machine.execUFcbrt rd rs1 s
  | .uCcbrt rd rs1 => Sys2Proof.Machine.execUCcbrt rd rs1 s

end Sys2Proof.Machine
end

