-- ==== Sys2Proof/Machine/Step.lean ====
section
/-! DEFINITION. One step of the machine: the next host transaction, performed whole (20_memory.md R52).
The core has no program counter and no fetch; a command comes as the data of a `CMD` write
(10_state.md R23, 20_memory.md R55). -/

namespace Sys2Proof.Machine

/-- One step: the oldest outstanding host transaction, with `exec` as the meaning of commands. -/
def step (s : State) : Host.Outcome State Fault Refusal := s.stepWith exec

/-- `s` with the opcode-table word `w` of `nbits` bits as the data of the host's next transaction, a
`CMD` write, and with the fault latch clear so that the write is not dropped (log 1, log 11). -/
def State.withFetchWord (s : State) (nbits w : Nat) : State :=
  s.offerCommand (BitVec.ofNat 64 (w % 2 ^ nbits))

end Sys2Proof.Machine
end

