-- ==== Sys2Proof/Machine/HostLines.lean ====
section
/-! DEFINITION. The lines of a host program and the port transactions they stand for (30_encoding.md
R74), and the pseudo-instructions, each of which is one command (R75). These are the host's side:
nothing of the core depends on them. -/

namespace Sys2Proof.Machine

/-- The port address of `q[r].lo`, `2r` (20_memory.md R41). -/
def loAddr (r : Reg) : PortAddr := 0#1 ++ r ++ 0#1

/-- The port address of `q[r].hi`, `2r + 1` (20_memory.md R41). -/
def hiAddr (r : Reg) : PortAddr := 0#1 ++ r ++ 1#1

/-- The address of `CMD` (20_memory.md R41). -/
def cmdAddr : PortAddr := 0x20

/-- The address of `STATUS` (20_memory.md R41). -/
def statusAddr : PortAddr := 0x21

/-- The data of a `CMD` write that carries the word `c`: zero in the upper half (20_memory.md R44). -/
def cmdData (c : Cmd) : Limb := 0#32 ++ c

/-- A line of a host program (30_encoding.md R74). -/
inductive HostLine where
  /-- `WR addr, data`. -/
  | wr (addr : PortAddr) (data : Limb)
  /-- `RD addr`. -/
  | rd (addr : PortAddr)
  /-- `WRQ qN, value128`. -/
  | wrq (r : Reg) (v : Word)
  /-- `RDQ qN`. -/
  | rdq (r : Reg)
  /-- `CLRF`. -/
  | clrf
  /-- `RESET`. -/
  | reset
  /-- A command line. -/
  | x (i : Instr)
deriving DecidableEq, Repr

/-- The port transactions of a host line (30_encoding.md R74): `WRQ` is two writes, `lo` then `hi`;
`RDQ` two reads; `CLRF` is `WR 0x21, 0`; a command line is `WR 0x20` of its encoding. -/
def lineTransactions : HostLine → List Transaction
  | .wr a d => [.write a d]
  | .rd a => [.read a]
  | .wrq r v => [.write (loAddr r) (lo v), .write (hiAddr r) (hi v)]
  | .rdq r => [.read (loAddr r), .read (hiAddr r)]
  | .clrf => [.write statusAddr 0]
  | .reset => [.reset]
  | .x i => [.write cmdAddr (cmdData (encode i))]

/-- The transactions of a host program, in list order (10_state.md R23). -/
def programTransactions (p : List HostLine) : List Transaction := p.flatMap lineTransactions

/-! ## Pseudo-instructions (30_encoding.md R75) -/

/-- `CLR rd`. -/
def pseudoClr (rd : Reg) : Instr := .ldc rd 0

/-- `S.ADD`, `U.ADD`. -/
def pseudoTypedAdd (rd a b : Reg) : Instr := .add rd a b

/-- `S.SUB`, `U.SUB`. -/
def pseudoTypedSub (rd a b : Reg) : Instr := .sub rd a b

/-- `S.NEG`, `U.NEG`. -/
def pseudoTypedNeg (rd a : Reg) : Instr := .neg rd a

/-- `S.INC`, `U.INC`. -/
def pseudoTypedInc (rd a : Reg) : Instr := .inc rd a

/-- `S.DEC`, `U.DEC`. -/
def pseudoTypedDec (rd a : Reg) : Instr := .dec rd a

/-- `U.MUL`. -/
def pseudoUMul (rd a b : Reg) : Instr := .mul rd a b

/-- `U.SHL`, `S.SHL`. -/
def pseudoTypedShl (rd a b : Reg) : Instr := .shl rd a b

/-- `U.SHR`. -/
def pseudoUShr (rd a b : Reg) : Instr := .shr rd a b

/-- `S.SHR`. -/
def pseudoSShr (rd a b : Reg) : Instr := .sar rd a b

/-- `U.SHLI`, `S.SHLI`. -/
def pseudoTypedShli (rd a : Reg) (d : BitVec 7) : Instr := .shli rd a d

/-- `U.SHRI`. -/
def pseudoUShri (rd a : Reg) (d : BitVec 7) : Instr := .shri rd a d

/-- `S.SHRI`. -/
def pseudoSShri (rd a : Reg) (d : BitVec 7) : Instr := .sari rd a d

/-- `U.EQ`, `S.EQ`. -/
def pseudoTypedEq (rd a b : Reg) : Instr := .eq rd a b

/-- `U.NE`, `S.NE`. -/
def pseudoTypedNe (rd a b : Reg) : Instr := .ne rd a b

/-- `U.ABS`: an unsigned value is its own magnitude. -/
def pseudoUAbs (rd a : Reg) : Instr := .mov rd a

/-- `U.POW`, `S.POW`. -/
def pseudoTypedPow (rd a b : Reg) : Instr := .pow rd a b

/-- `U.SQR`, `S.SQR`. -/
def pseudoTypedSqr (rd a : Reg) : Instr := .sqr rd a

/-- `U.CUBE`, `S.CUBE`. -/
def pseudoTypedCube (rd a : Reg) : Instr := .cube rd a

/-- `TRUNC64`: "truncating to the low 64 bits". -/
def pseudoTrunc64 (rd a : Reg) : Instr := .zext64 rd a

end Sys2Proof.Machine
end

