-- ==== Sys2Proof/Machine/OpcodeTable.lean ====
section
/-! DEFINITION. The opcode map as the spec prints it (30_encoding.md R70): mnemonic, opcode and format
of each command, the bits each format leaves unused (R62 to R68), and which words are illegal (R71).
The decoder does not use this file; it stands beside it so that the two can be compared. -/

namespace Sys2Proof.Machine

/-- The seven formats (30_encoding.md R62 to R68). -/
inductive Format where
  | n | k | r1 | r2 | r3 | ri | r2d
deriving DecidableEq, Repr

/-- The bits of a command word that a format requires to be zero (30_encoding.md R62 to R68). -/
def Format.zeroBits : Format → Cmd
  | .n => 0xFFFFFF00
  | .k => 0x00FFF000
  | .r1 => 0xFFFF0000
  | .r2 => 0xFFF00000
  | .r3 => 0xFF000000
  | .ri => 0x80FF0000
  | .r2d => 0xFF000000

/-- A row of the map (30_encoding.md R70). -/
structure OpcodeRow where
  mnemonic : String
  opcode : BitVec 8
  format : Format
deriving DecidableEq, Repr

/-- Rows 0x00 to 0x1D (30_encoding.md R70). -/
def rowsRepresentation : List OpcodeRow := [
  ⟨"NOP", 0x00, .n⟩,
  ⟨"LDC", 0x10, .k⟩,
  ⟨"MOV", 0x11, .r1⟩,
  ⟨"ZEXT8", 0x12, .r1⟩,
  ⟨"ZEXT16", 0x13, .r1⟩,
  ⟨"ZEXT32", 0x14, .r1⟩,
  ⟨"ZEXT64", 0x15, .r1⟩,
  ⟨"SEXT8", 0x16, .r1⟩,
  ⟨"SEXT16", 0x17, .r1⟩,
  ⟨"SEXT32", 0x18, .r1⟩,
  ⟨"SEXT64", 0x19, .r1⟩,
  ⟨"CVT.U.F64", 0x1A, .r1⟩,
  ⟨"CVT.F64.U", 0x1B, .r1⟩,
  ⟨"CVT.S.F64", 0x1C, .r1⟩,
  ⟨"CVT.F64.S", 0x1D, .r1⟩]

/-- Rows 0x20 to 0x29, bitwise and shifts (30_encoding.md R70). -/
def rowsBitwise : List OpcodeRow := [
  ⟨"AND", 0x20, .r2⟩,
  ⟨"OR", 0x21, .r2⟩,
  ⟨"XOR", 0x22, .r2⟩,
  ⟨"NOT", 0x23, .r1⟩,
  ⟨"SHL", 0x24, .r2⟩,
  ⟨"SHR", 0x25, .r2⟩,
  ⟨"SAR", 0x26, .r2⟩,
  ⟨"SHLI", 0x27, .ri⟩,
  ⟨"SHRI", 0x28, .ri⟩,
  ⟨"SARI", 0x29, .ri⟩]

/-- Rows 0x30 to 0x3F, comparisons (30_encoding.md R70). -/
def rowsCompare : List OpcodeRow := [
  ⟨"EQ", 0x30, .r2⟩,
  ⟨"NE", 0x31, .r2⟩,
  ⟨"U.LT", 0x32, .r2⟩,
  ⟨"U.LE", 0x33, .r2⟩,
  ⟨"U.GT", 0x34, .r2⟩,
  ⟨"U.GE", 0x35, .r2⟩,
  ⟨"U.CMP", 0x36, .r2⟩,
  ⟨"U.MIN", 0x37, .r2⟩,
  ⟨"U.MAX", 0x38, .r2⟩,
  ⟨"S.LT", 0x39, .r2⟩,
  ⟨"S.LE", 0x3A, .r2⟩,
  ⟨"S.GT", 0x3B, .r2⟩,
  ⟨"S.GE", 0x3C, .r2⟩,
  ⟨"S.CMP", 0x3D, .r2⟩,
  ⟨"S.MIN", 0x3E, .r2⟩,
  ⟨"S.MAX", 0x3F, .r2⟩]

/-- Rows 0x40 to 0x62, addition, multiplication and unsigned division (30_encoding.md R70). -/
def rowsArithmetic : List OpcodeRow := [
  ⟨"ADD", 0x40, .r2⟩,
  ⟨"SUB", 0x41, .r2⟩,
  ⟨"NEG", 0x42, .r1⟩,
  ⟨"INC", 0x43, .r1⟩,
  ⟨"DEC", 0x44, .r1⟩,
  ⟨"MUL", 0x50, .r2⟩,
  ⟨"MUL64", 0x51, .r2⟩,
  ⟨"SQR", 0x52, .r1⟩,
  ⟨"CUBE", 0x53, .r1⟩,
  ⟨"POW", 0x54, .r2⟩,
  ⟨"U.DIV", 0x60, .r2⟩,
  ⟨"U.REM", 0x61, .r2⟩,
  ⟨"U.DIVREM", 0x62, .r2d⟩]

/-- Rows 0x70 to 0x7B, signed commands (30_encoding.md R70). -/
def rowsSigned : List OpcodeRow := [
  ⟨"S.MUL", 0x70, .r2⟩,
  ⟨"S.DIV", 0x71, .r2⟩,
  ⟨"S.REM", 0x72, .r2⟩,
  ⟨"S.DIVREM", 0x73, .r2d⟩,
  ⟨"S.ABS", 0x74, .r1⟩,
  ⟨"S.FSQRT", 0x78, .r1⟩,
  ⟨"S.CSQRT", 0x79, .r1⟩,
  ⟨"S.FCBRT", 0x7A, .r1⟩,
  ⟨"S.CCBRT", 0x7B, .r1⟩]

/-- Rows 0x80 to 0xA3, greatest common divisor, modular commands and unsigned roots (30_encoding.md R70). -/
def rowsSpecial : List OpcodeRow := [
  ⟨"U.GCD", 0x80, .r2⟩,
  ⟨"U.MODADD", 0x90, .r3⟩,
  ⟨"U.MODSUB", 0x91, .r3⟩,
  ⟨"U.MODMUL", 0x92, .r3⟩,
  ⟨"U.MODPOW", 0x93, .r3⟩,
  ⟨"U.FSQRT", 0xA0, .r1⟩,
  ⟨"U.CSQRT", 0xA1, .r1⟩,
  ⟨"U.FCBRT", 0xA2, .r1⟩,
  ⟨"U.CCBRT", 0xA3, .r1⟩]

/-- The opcode map: 72 commands (30_encoding.md R70). -/
def opcodeMap : List OpcodeRow :=
  rowsRepresentation ++ rowsBitwise ++ rowsCompare ++ rowsArithmetic ++ rowsSigned ++ rowsSpecial

/-- The format of an opcode, none for a number that is not in the map (30_encoding.md R60 step 1). -/
def formatOf (op : BitVec 8) : Option Format :=
  (opcodeMap.find? fun row => row.opcode == op).map fun row => row.format

/-- A word is illegal, the four cases of 30_encoding.md R71: (a) no row has its opcode; (b) a bit that
its format requires to be zero is one; (c) it is an `LDC` with a selector of 5 or more; (d) its format
is R2D and its two destinations are equal. -/
def IllegalWord (c : Cmd) : Prop :=
  let op := c.extractLsb' 0 8
  formatOf op = none
    ∨ (∃ f, formatOf op = some f ∧ c &&& f.zeroBits ≠ 0)
    ∨ (op = 0x10 ∧ 5 ≤ (c.extractLsb' 24 8).toNat)
    ∨ (formatOf op = some .r2d ∧ c.extractLsb' 8 4 = c.extractLsb' 20 4)

end Sys2Proof.Machine
end

