-- ==== Sys2Proof/Safety.lean ====
section
/-! DEFINITION. The vocabulary of claims about the machine: what a command leaves alone, what latching
a fault is, how a command is encoded, which commands can raise which fault (60_exceptions.md R361,
R363), and the invariant of the fault latch. -/

namespace Sys2Proof.Machine

/-! ## Frames -/

/-- `t` is as `s` except for the value registers listed: every other register, the fault latch and the
host's side of the port are unchanged. There is no other state (10_state.md R30). -/
def SameOutside (rs : List Reg) (s t : State) : Prop :=
  (∀ r, r ∉ rs → t.reg r = s.reg r) ∧ t.fcode = s.fcode ∧ t.fcmd = s.fcmd
    ∧ t.pending = s.pending ∧ t.returned = s.returned ∧ t.resets = s.resets

/-- `t` is `s` with the fault `k` latched for the command word `c`, and nothing else changed
(60_exceptions.md R364). -/
def Latches (k : FaultKind) (c : Cmd) (s t : State) : Prop :=
  t.fcode = k.code ∧ t.fcmd = c ∧ (∀ r, t.reg r = s.reg r)
    ∧ t.pending = s.pending ∧ t.returned = s.returned ∧ t.resets = s.resets

/-! ## Encodings -/

/-- The number `opcode | rd<<8 | rs1<<12 | rs2<<16 | rs3<<20 | imm8<<24` (30_encoding.md R61). -/
def wordOf (op : Nat) (rd rs1 rs2 rs3 : Reg) (imm : Nat) : Nat :=
  op + 2 ^ 8 * rd.toNat + 2 ^ 12 * rs1.toNat + 2 ^ 16 * rs2.toNat + 2 ^ 20 * rs3.toNat + 2 ^ 24 * imm

/-- A format R1 word as a number (30_encoding.md R64). -/
def wordR1 (op : Nat) (rd rs1 : Reg) : Nat := wordOf op rd rs1 0 0 0

/-- A format R2 word as a number (30_encoding.md R65). -/
def wordR2 (op : Nat) (rd rs1 rs2 : Reg) : Nat := wordOf op rd rs1 rs2 0 0

/-- A format R3 word as a number (30_encoding.md R66). -/
def wordR3 (op : Nat) (rd rs1 rs2 rs3 : Reg) : Nat := wordOf op rd rs1 rs2 rs3 0

/-- A format RI word as a number (30_encoding.md R67). -/
def wordRI (op : Nat) (rd rs1 : Reg) (shamt : BitVec 7) : Nat := wordOf op rd rs1 0 0 shamt.toNat

/-- A format R2D word as a number: the second destination stands at bits 23:20 (30_encoding.md R68). -/
def wordR2D (op : Nat) (rd rd2 rs1 rs2 : Reg) : Nat := wordOf op rd rs1 rs2 rd2 0

/-- The one legal word of the command `i` is the number `w`: `i` encodes to it, and it decodes to
`i`. -/
def HasWord (i : Instr) (w : Nat) : Prop := (encode i).toNat = w ∧ decode (encode i) = .ok i

/-! ## Which command can raise which fault (60_exceptions.md R361, R363) -/

/-- The register whose being `Zero` is DivideByZero: the divisor of the six division commands, the
modulus of the four modular ones. -/
def divisorReg : Instr → Option Reg
  | .uDiv _ _ rs2 => some rs2
  | .uRem _ _ rs2 => some rs2
  | .uDivRem _ _ _ rs2 => some rs2
  | .sDiv _ _ rs2 => some rs2
  | .sRem _ _ rs2 => some rs2
  | .sDivRem _ _ _ rs2 => some rs2
  | .uModAdd _ _ _ rs3 => some rs3
  | .uModSub _ _ _ rs3 => some rs3
  | .uModMul _ _ _ rs3 => some rs3
  | .uModPow _ _ _ rs3 => some rs3
  | _ => none

/-- The register whose being negative is DomainError: the operand of the four signed roots, the
exponent of `POW`. -/
def domainReg : Instr → Option Reg
  | .sFsqrt _ rs1 => some rs1
  | .sCsqrt _ rs1 => some rs1
  | .sFcbrt _ rs1 => some rs1
  | .sCcbrt _ rs1 => some rs1
  | .pow _ _ rs2 => some rs2
  | _ => none

/-- The value registers a command may write: `rd` of every command that has one, and `rd2` of the two
`DIVREM` (10_state.md R22). -/
def destinations : Instr → List Reg
  | .nop => []
  | .ldc rd _ => [rd]
  | .mov rd _ => [rd]
  | .zext8 rd _ => [rd]
  | .zext16 rd _ => [rd]
  | .zext32 rd _ => [rd]
  | .zext64 rd _ => [rd]
  | .sext8 rd _ => [rd]
  | .sext16 rd _ => [rd]
  | .sext32 rd _ => [rd]
  | .sext64 rd _ => [rd]
  | .cvtUF64 rd _ => [rd]
  | .cvtF64U rd _ => [rd]
  | .cvtSF64 rd _ => [rd]
  | .cvtF64S rd _ => [rd]
  | .and rd _ _ => [rd]
  | .or rd _ _ => [rd]
  | .xor rd _ _ => [rd]
  | .not rd _ => [rd]
  | .shl rd _ _ => [rd]
  | .shr rd _ _ => [rd]
  | .sar rd _ _ => [rd]
  | .shli rd _ _ => [rd]
  | .shri rd _ _ => [rd]
  | .sari rd _ _ => [rd]
  | .eq rd _ _ => [rd]
  | .ne rd _ _ => [rd]
  | .uLt rd _ _ => [rd]
  | .uLe rd _ _ => [rd]
  | .uGt rd _ _ => [rd]
  | .uGe rd _ _ => [rd]
  | .uCmp rd _ _ => [rd]
  | .uMin rd _ _ => [rd]
  | .uMax rd _ _ => [rd]
  | .sLt rd _ _ => [rd]
  | .sLe rd _ _ => [rd]
  | .sGt rd _ _ => [rd]
  | .sGe rd _ _ => [rd]
  | .sCmp rd _ _ => [rd]
  | .sMin rd _ _ => [rd]
  | .sMax rd _ _ => [rd]
  | .add rd _ _ => [rd]
  | .sub rd _ _ => [rd]
  | .neg rd _ => [rd]
  | .inc rd _ => [rd]
  | .dec rd _ => [rd]
  | .mul rd _ _ => [rd]
  | .mul64 rd _ _ => [rd]
  | .sqr rd _ => [rd]
  | .cube rd _ => [rd]
  | .pow rd _ _ => [rd]
  | .uDiv rd _ _ => [rd]
  | .uRem rd _ _ => [rd]
  | .uDivRem rd rd2 _ _ => [rd, rd2]
  | .sMul rd _ _ => [rd]
  | .sDiv rd _ _ => [rd]
  | .sRem rd _ _ => [rd]
  | .sDivRem rd rd2 _ _ => [rd, rd2]
  | .sAbs rd _ => [rd]
  | .sFsqrt rd _ => [rd]
  | .sCsqrt rd _ => [rd]
  | .sFcbrt rd _ => [rd]
  | .sCcbrt rd _ => [rd]
  | .uGcd rd _ _ => [rd]
  | .uModAdd rd _ _ _ => [rd]
  | .uModSub rd _ _ _ => [rd]
  | .uModMul rd _ _ _ => [rd]
  | .uModPow rd _ _ _ => [rd]
  | .uFsqrt rd _ => [rd]
  | .uCsqrt rd _ => [rd]
  | .uFcbrt rd _ => [rd]
  | .uCcbrt rd _ => [rd]

/-! ## The fault latch -/

/-- What the fault latch can hold (10_state.md R25, 60_exceptions.md R361, R363): no fault and the
word 0; or a code that the hardware raises, and for the two operand faults a word that decodes to a
command that can raise it. -/
def LatchInv (s : State) : Prop :=
  (s.fcode = 0 → s.fcmd = 0)
    ∧ (s.fcode = 0 ∨ s.fcode = 1 ∨ s.fcode = 2 ∨ s.fcode = 3)
    ∧ (s.fcode = 2 → ∃ i, decode s.fcmd = .ok i ∧ divisorReg i ≠ none)
    ∧ (s.fcode = 3 → ∃ i, decode s.fcmd = .ok i ∧ domainReg i ≠ none)

/-! ## Floating-point patterns -/

/-- The limb `p` is a binary64 pattern with the sign bit clear whose value is the natural number `n`: a
zero, or a normal number with `n = 2^(exponent - 1075) * (2^52 + fraction)`, written without a
negative power (40_representation_conversion.md R103). -/
def F64IsNat (p : Limb) (n : Nat) : Prop :=
  p.getLsbD 63 = false ∧
    ((p.extractLsb' 52 11 = 0 ∧ p.extractLsb' 0 52 = 0 ∧ n = 0)
      ∨ (1 ≤ (p.extractLsb' 52 11).toNat ∧ (p.extractLsb' 52 11).toNat ≤ 2046
        ∧ n * 2 ^ 1075 = (2 ^ 52 + (p.extractLsb' 0 52).toNat) * 2 ^ (p.extractLsb' 52 11).toNat))

/-- `n` has at most 53 significant bits: what is left when its trailing zeros are taken off is below
`2^53` (40_representation_conversion.md R105). -/
def AtMost53Bits (n : Nat) : Prop := ∃ m k : Nat, n = m * 2 ^ k ∧ m < 2 ^ 53

end Sys2Proof.Machine
end

