-- ==== Sys2Proof/Certificates/Slice0/Obligations.lean ====
section
/-! DEFINITION. The statements about the model, one definition each. The order is: encoding, the host
port, reset, faults and frames, then the commands family by family, each with the datapath procedure
that must agree with it. -/

section Statements

open Sys2Proof Sys2Proof.Machine

/-- Decoding the word of any well-formed command gives the command back. For every command i of the
72, with every register number, every legal constant selector and every shift amount (and two
different destinations for a DIVREM), decode (encode i) is i: no operand bit is lost and no two
commands share a word. Basis: 30_encoding.md R61-R70. -/
def Obligations.DecodeOfEncodeIsIdentity : Prop :=
  ∀ i : Instr, wellFormed i = true → decode (encode i) = .ok i

/-- Every word that decodes is the one encoding of the command it decodes to. If a 32-bit word decodes
to a command i, then i is well formed and the word is exactly encode i: there are no hint
encodings, no second spelling and no ignored bit. Basis: 30_encoding.md R71, 30_encoding.md R72. -/
def Obligations.EncodeOfDecodeIsIdentity : Prop :=
  ∀ (c : Cmd) (i : Instr), decode c = .ok i → wellFormed i = true ∧ encode i = c

/-- A word is illegal exactly in the four cases of the rule, and then latches IllegalCommand and
nothing else. With no fault latched, a CMD write of data d raises IllegalCommand, with FCMD =
d[31:0] and no other effect, when d[63:32] is not zero or the word d[31:0] is illegal by (a)
unknown opcode, (b) a set bit that the format requires to be zero, (c) LDC with a selector of 5 or
more, (d) a DIVREM with equal destinations; and the decoder rejects a word in exactly these four
cases, so every other word with a zero upper half runs. No register is consulted. Basis: R71. -/
def Obligations.IllegalWordsAreExactlyTheFourCases : Prop :=
  (∀ c : Cmd, (∃ e, decode c = .error e) ↔ IllegalWord c) ∧
  ∀ (s : State) (d : Limb) (rest : List Transaction),
    s.pending = .write 0x20 d :: rest → s.fcode = 0 →
    ((2 ^ 32 ≤ d.toNat ∨ IllegalWord (d.extractLsb' 0 32)) →
      ∃ t, step s = .next t
        ∧ Latches .illegalCommand (d.extractLsb' 0 32) { s with pending := rest } t) ∧
    (d.toNat < 2 ^ 32 → ¬ IllegalWord (d.extractLsb' 0 32) →
      ∃ i, decode (d.extractLsb' 0 32) = .ok i ∧ step s = exec i { s with pending := rest })

/-- Sample words written out from the encodings decode to the commands they stand for. One word of
each format and family, written out from the field positions, decodes to its command: NOP, LDC q3
SMIN, MOV, AND, SHLI, U.LT, ADD, MUL, U.DIVREM, S.DIV, U.GCD, U.MODADD, U.FSQRT, S.CCBRT; and two
words with a set unused bit are rejected. Basis: 30_encoding.md R70, 95_test_vectors.md section 2. -/
def Obligations.SampleWordsDecode : Prop :=
  decode 0x00000000 = .ok .nop ∧ decode 0x03000310 = .ok (.ldc 3 3)
  ∧ decode 0x00000111 = .ok (.mov 1 0) ∧ decode 0x00010220 = .ok (.and 2 0 1)
  ∧ decode 0x7F000127 = .ok (.shli 1 0 127) ∧ decode 0x00010232 = .ok (.uLt 2 0 1)
  ∧ decode 0x00010240 = .ok (.add 2 0 1) ∧ decode 0x00010250 = .ok (.mul 2 0 1)
  ∧ decode 0x00310262 = .ok (.uDivRem 2 3 0 1) ∧ decode 0x00010271 = .ok (.sDiv 2 0 1)
  ∧ decode 0x00010280 = .ok (.uGcd 2 0 1) ∧ decode 0x00210390 = .ok (.uModAdd 3 0 1 2)
  ∧ decode 0x000001A0 = .ok (.uFsqrt 1 0) ∧ decode 0x0000017B = .ok (.sCcbrt 1 0)
  ∧ decode 0x00000100 = .error (.unusedFieldSet 0) ∧ decode 0x00110240 = .error
      (.unusedFieldSet 0x40)

/-- A step on a CMD write of a well-formed command is exec of it; so is one after withFetchWord, which
is the model's choice (logs 1, 11). With no fault latched and the encoding of a well-formed
command i as the data of the oldest outstanding transaction, a CMD write, step answers exactly
what exec i answers at the state with that transaction taken off the list (R44, R60). The second
clause rests on no rule of the spec but on the model's choice: withFetchWord puts the CMD write at
the head of the outstanding transactions (log 1) and clears the fault latch so that the write is
not dropped (log 11), so the step after withFetchWord of the encoding is exec i at the state with
the latch clear, whatever was latched before. Basis: 20_memory.md R44, 30_encoding.md R60,
10_state.md R23, notes/assumptions/1.md, notes/assumptions/11.md. -/
def Obligations.StepRunsTheDecodedCommand : Prop :=
  ∀ (s : State) (i : Instr) (rest : List Transaction), wellFormed i = true →
    (s.pending = .write 0x20 (0#32 ++ encode i) :: rest → s.fcode = 0 →
      step s = exec i { s with pending := rest }) ∧
    step (s.withFetchWord 32 (encode i).toNat) = exec i s.clearFault

/-- A CMD write is dropped under a latched fault, illegal with a set upper half, and otherwise
executed. PortWrite(0x20, d): with a fault latched nothing changes; otherwise, with d[63:32] not
zero IllegalCommand is latched with FCMD = d[31:0]; otherwise d[31:0] is decoded and the step is
exec of the command, or IllegalCommand when it decodes to none. The step is over only when the
command is. PortRead(0x20) returns 0 and changes nothing. Basis: R44. -/
def Obligations.CmdWriteDecodesAndExecutes : Prop :=
  ∀ (s : State) (d : Limb) (rest : List Transaction),
    (s.pending = .write 0x20 d :: rest →
      (s.fcode ≠ 0 → step s = .next { s with pending := rest }) ∧
      (s.fcode = 0 → 2 ^ 32 ≤ d.toNat → ∃ t, step s = .next t
        ∧ Latches .illegalCommand (d.extractLsb' 0 32) { s with pending := rest } t) ∧
      (s.fcode = 0 → d.toNat < 2 ^ 32 → ∀ i, decode (d.extractLsb' 0 32) = .ok i →
        step s = exec i { s with pending := rest }) ∧
      (s.fcode = 0 → d.toNat < 2 ^ 32 → ∀ e, decode (d.extractLsb' 0 32) = .error e →
        ∃ t, step s = .next t
          ∧ Latches .illegalCommand (d.extractLsb' 0 32) { s with pending := rest } t)) ∧
    (s.pending = .read 0x20 :: rest →
      step s = .next { s with pending := rest, returned := s.returned ++ [0] })

/-- While a fault is latched a CMD write is dropped, and limbs and STATUS are read and written as
usual. With FCODE not 0: a CMD write, legal or not, changes nothing at all (no register, no FCODE,
no FCMD); a limb write replaces its limb, a limb read returns its limb, a STATUS read returns
{FCMD, 28 zeros, FCODE}, and a STATUS write clears the latch. Basis: R366. -/
def Obligations.LatchedFaultDropsCommandsOnly : Prop :=
  ∀ (s : State) (a : PortAddr) (d : Limb) (rest : List Transaction), s.fcode ≠ 0 →
    (s.pending = .write 0x20 d :: rest → step s = .next { s with pending := rest }) ∧
    (s.pending = .write a d :: rest → a.toNat ≤ 0x1F → ∃ t, step s = .next t
      ∧ (if a.toNat % 2 = 1 then hi else lo) (t.reg (BitVec.ofNat 4 (a.toNat / 2))) = d
      ∧ (if a.toNat % 2 = 1 then lo else hi) (t.reg (BitVec.ofNat 4 (a.toNat / 2)))
          = (if a.toNat % 2 = 1 then lo else hi) (s.reg (BitVec.ofNat 4 (a.toNat / 2)))
      ∧ SameOutside [BitVec.ofNat 4 (a.toNat / 2)] { s with pending := rest } t) ∧
    (s.pending = .read a :: rest → a.toNat ≤ 0x1F → step s = .next { s with
      pending := rest
      returned := s.returned ++
        [(if a.toNat % 2 = 1 then hi else lo) (s.reg (BitVec.ofNat 4 (a.toNat / 2)))] }) ∧
    (s.pending = .read 0x21 :: rest → step s = .next { s with
      pending := rest
      returned := s.returned ++ [BitVec.ofNat 64 (s.fcmd.toNat * 2 ^ 32 + s.fcode.toNat)] }) ∧
    (s.pending = .write 0x21 d :: rest →
      step s = .next { s with pending := rest, fcode := 0, fcmd := 0 })

/-- A limb write replaces one limb of one register and nothing else, whether or not a fault is
latched. PortWrite(a, d) with a at most 0x1F, i = a[4:1]: for even a the low limb of q[i] becomes
d and the high limb stays, for odd a the high limb becomes d and the low limb stays; every other
register, the fault latch and the port fields stay; whatever FCODE is. Basis: R42. -/
def Obligations.LimbWriteReplacesOneLimb : Prop :=
  ∀ (s : State) (a : PortAddr) (d : Limb) (rest : List Transaction), a.toNat ≤ 0x1F →
    s.pending = .write a d :: rest → ∃ t, step s = .next t
      ∧ (a.toNat % 2 = 0 → lo (t.reg (BitVec.ofNat 4 (a.toNat / 2))) = d
        ∧ hi (t.reg (BitVec.ofNat 4 (a.toNat / 2))) = hi (s.reg (BitVec.ofNat 4 (a.toNat / 2))))
      ∧ (a.toNat % 2 = 1 → hi (t.reg (BitVec.ofNat 4 (a.toNat / 2))) = d
        ∧ lo (t.reg (BitVec.ofNat 4 (a.toNat / 2))) = lo (s.reg (BitVec.ofNat 4 (a.toNat / 2))))
      ∧ SameOutside [BitVec.ofNat 4 (a.toNat / 2)] { s with pending := rest } t

/-- A limb read returns the limb and changes no state of the core. PortRead(a) with a at most 0x1F, i
= a[4:1]: the data appended to what the host has received is the low limb of q[i] for even a and
the high limb for odd a, as numbers u(q[i]) mod 2^64 and u(q[i]) div 2^64; nothing else changes.
Basis: R43. -/
def Obligations.LimbReadReturnsTheLimb : Prop :=
  ∀ (s : State) (a : PortAddr) (rest : List Transaction), a.toNat ≤ 0x1F →
    s.pending = .read a :: rest →
      step s = .next { s with
        pending := rest
        returned := s.returned ++ [BitVec.ofNat 64
          (if a.toNat % 2 = 0 then (s.reg (BitVec.ofNat 4 (a.toNat / 2))).toNat % 2 ^ 64
            else (s.reg (BitVec.ofNat 4 (a.toNat / 2))).toNat / 2 ^ 64)] }

/-- STATUS reads as {FCMD, 28 zeros, FCODE} and any write to it clears the latch. PortRead(0x21)
returns the number FCMD * 2^32 + FCODE and changes nothing; PortWrite(0x21, d) sets FCODE and FCMD
to 0 for every d and leaves every register. Basis: R45. -/
def Obligations.StatusReadsWholeAndClearsOnWrite : Prop :=
  ∀ (s : State) (d : Limb) (rest : List Transaction),
    (s.pending = .read 0x21 :: rest → step s = .next { s with
      pending := rest
      returned := s.returned ++ [BitVec.ofNat 64 (s.fcmd.toNat * 2 ^ 32 + s.fcode.toNat)] }) ∧
    (s.pending = .write 0x21 d :: rest →
      step s = .next { s with pending := rest, fcode := 0, fcmd := 0 })

/-- A reserved address reads as 0 and ignores writes, with no fault (the model takes the effect, log
21). For every address from 0x22 to 0x3F: a read returns 0 and changes nothing else, and a write
changes nothing. The rule lets a model refuse instead; this one does not (log 21). Basis:
20_memory.md R46, notes/assumptions/21.md. -/
def Obligations.ReservedAddressesReadZeroAndIgnoreWrites : Prop :=
  ∀ (s : State) (a : PortAddr) (d : Limb) (rest : List Transaction), 0x22 ≤ a.toNat →
    (s.pending = .read a :: rest →
      step s = .next { s with pending := rest, returned := s.returned ++ [0] }) ∧
    (s.pending = .write a d :: rest → step s = .next { s with pending := rest })

/-- WRQ then RDQ of a register returns the value, low limb first. From any state whose oldest
transactions are those of WRQ qN, v and then of RDQ qN, four steps reach a state in which the
register holds v, the two limbs of v (low first) have been returned, and every other register and
the latch are as before. That transactions wait in a list and that returned data is appended to
one is the model's choice (logs 1, 2). Basis: 20_memory.md R47, 20_memory.md R52, 30_encoding.md
R74, notes/assumptions/1.md, notes/assumptions/2.md. -/
def Obligations.WrittenRegisterReadsBack : Prop :=
  ∀ (s : State) (r : Reg) (v : Word) (rest : List Transaction),
    s.pending = lineTransactions (.wrq r v) ++ lineTransactions (.rdq r) ++ rest →
    ∃ t : State, Host.Core.run core 4 s = .next t ∧ t.reg r = v
      ∧ t.returned = s.returned ++ [BitVec.ofNat 64 (v.toNat % 2 ^ 64), BitVec.ofNat 64
          (v.toNat / 2 ^ 64)]
      ∧ (∀ r', r' ≠ r → t.reg r' = s.reg r') ∧ t.fcode = s.fcode ∧ t.fcmd = s.fcmd ∧ t.pending
          = rest

/-- A Reset gives every register its draw, clears STATUS and the fault output, and lets the next
command run. After Reset every register q[i] holds the draw cfg.resetQ(i) of this reset (which
draw is the count of earlier resets, the model's choice, logs 4 and 5), FCODE and FCMD are 0, all
64 bits of STATUS are 0 and the fault output is low; and if the next transaction is a CMD write of
a well-formed command, the next step is exec of it. Basis: 70_reset_and_hazards.md R391-R393,
notes/assumptions/4.md, notes/assumptions/5.md. -/
def Obligations.ResetDrawsRegistersAndClearsTheLatch : Prop :=
  ∀ (s : State) (rest : List Transaction), s.pending = .reset :: rest →
    ∃ t, step s = .next t ∧ (∀ r, t.reg r = Config.resetQ s.resets r) ∧ t.fcode = 0 ∧ t.fcmd = 0
      ∧ t.status = 0 ∧ t.faultOutput = false ∧ t.pending = rest ∧ t.returned = s.returned
      ∧ t.resets = s.resets + 1
      ∧ ∀ i more, wellFormed i = true → rest = .write 0x20 (0#32 ++ encode i) :: more →
          step t = exec i { t with pending := more }

/-- The state right after reset: no fault latched, STATUS 0, fault output low, every register a draw.
State.reset has FCODE = 0, FCMD = 0, STATUS = 0 and a low fault output, and every register holds
an unconstrained draw; that no transaction is outstanding and none has returned data is the
model's choice (log 1, log 2). Basis: 70_reset_and_hazards.md R391-R393, notes/assumptions/1.md,
notes/assumptions/4.md. -/
def Obligations.ResetStateAsTheSpecSays : Prop :=
  State.reset.fcode = 0 ∧ State.reset.fcmd = 0 ∧ State.reset.status = 0
  ∧ State.reset.faultOutput = false ∧ (∀ r, State.reset.reg r = Config.resetQ 0 r)
  ∧ State.reset.pending = [] ∧ State.reset.returned = []

/-- Every step keeps the invariant of the fault latch. If FCMD is 0 whenever FCODE is 0, FCODE is one
of 0, 1, 2, 3, and under code 2 or 3 FCMD decodes to a command that can raise DivideByZero or
DomainError, then the same holds after any step, whatever transaction it performs. Basis:
10_state.md R25, 60_exceptions.md R361, 60_exceptions.md R363, 60_exceptions.md R366. -/
def Obligations.EveryStepKeepsTheLatchInvariant : Prop :=
  ∀ s t : State, LatchInv s → step s = .next t → LatchInv t

/-- The state right after reset satisfies the invariant of the fault latch. LatchInv holds of
State.reset. Basis: 70_reset_and_hazards.md R392, 10_state.md R25. -/
def Obligations.ResetStateHasTheLatchInvariant : Prop :=
  LatchInv State.reset

/-- Every step answers a next state: nothing stops this machine, and with nothing outstanding nothing
changes. For every state, step answers next; with no outstanding transaction it answers the state
itself (that an idle machine steps at all is the model's choice, log 3). Basis: 60_exceptions.md
R360, 60_exceptions.md R364, 20_memory.md R52, notes/assumptions/3.md, notes/assumptions/20.md. -/
def Obligations.EveryStepAnswersANextState : Prop :=
  ∀ s : State, (∃ t, step s = .next t) ∧ (s.pending = [] → step s = .next s)

/-- A well-formed command latches no fault unless it is a listed one and its listed operand condition
holds. For every well-formed command: if its divisor or modulus register (when it has one) is not
Zero and its signed root operand or exponent (when it has one) is not negative, it answers a next
state with FCODE and FCMD unchanged. In particular the 57 commands without such a register never
fault. Basis: 60_exceptions.md R363, 60_exceptions.md R362. -/
def Obligations.NoFaultOutsideTheListedConditions : Prop :=
  ∀ (i : Instr) (s : State), wellFormed i = true →
    (∀ r, divisorReg i = some r → (s.reg r).toNat ≠ 0) →
    (∀ r, domainReg i = some r → 0 ≤ (s.reg r).toInt) →
    ∃ t, exec i s = .next t ∧ t.fcode = s.fcode ∧ t.fcmd = s.fcmd

/-- The ten division and modular commands latch code 2 on Zero, the signed roots and POW code 3 on a
negative. For U.DIV, U.REM, U.DIVREM, S.DIV, S.REM, S.DIVREM with q[rs2] = Zero and U.MODADD,
U.MODSUB, U.MODMUL, U.MODPOW with q[rs3] = Zero, FCODE becomes 2; for S.FSQRT, S.CSQRT, S.FCBRT,
S.CCBRT with q[rs1] negative and POW with q[rs2] negative, FCODE becomes 3; in both cases FCMD
becomes the command word, and no value register and nothing else changes. The word is taken as the
command's own encoding, which the model deduces to be the written word (log 9). Basis:
60_exceptions.md R361, 60_exceptions.md R364, 44_divide.md R210, 46_modular.md R260, 47_signed.md
R301, 43_multiply.md R184, 48_roots.md R340-R343, notes/assumptions/9.md. -/
def Obligations.OperandFaultsLatchTheirCode : Prop :=
  ∀ (i : Instr) (r : Reg) (s : State), wellFormed i = true →
    (divisorReg i = some r → (s.reg r).toNat = 0 →
      ∃ t, exec i s = .next t ∧ t.fcode = 2 ∧ Latches .divideByZero (encode i) s t) ∧
    (domainReg i = some r → (s.reg r).toInt < 0 →
      ∃ t, exec i s = .next t ∧ t.fcode = 3 ∧ Latches .domainError (encode i) s t)

/-- Frame of every command: it writes at most its destinations, or it latches a fault and writes no
register. For every command, well formed or not, exec answers a next state in which either the
fault latch is unchanged and every register but rd (and rd2 of a DIVREM) is unchanged, or a fault
is latched with the command's own word and every register is unchanged. The host's side of the
port never changes. There is no memory. That the word latched is the command's encoding is deduced
(log 9), and so is what exec answers on a command that no word encodes (log 10). Basis:
10_state.md R22, 10_state.md R30, 60_exceptions.md R364, notes/assumptions/9.md,
notes/assumptions/10.md. -/
def Obligations.CommandsChangeOnlyTheirDestinations : Prop :=
  ∀ (i : Instr) (s : State), ∃ t, exec i s = .next t
    ∧ (SameOutside (destinations i) s t ∨ ∃ k, Latches k (encode i) s t)

/-- NOP is the word 0 and changes nothing. NOP is encoded as 0x00000000 and answers the state it was
given; a word with low byte 0 and any of bits 31:8 set is no NOP but is rejected by the decoder.
Basis: R76. -/
def Obligations.NopChangesNothing : Prop :=
  HasWord .nop 0 ∧ (∀ s : State, exec .nop s = .next s)
  ∧ ∀ c : Cmd, c.extractLsb' 0 8 = 0 → c.extractLsb' 8 24 ≠ 0 → ∃ e, decode c = .error e

/-- LDC loads Zero, One, MaxValue, signed MinValue or signed MaxValue, and a selector of 5 or more is
illegal. For each selector k from 0 to 4, LDC rd, k is the word 0x10 | rd<<8 | k<<24 and writes to
rd the constant the rule lists for k, changing nothing else; a selector of 5 or more latches
IllegalCommand and writes no register. Basis: R92. -/
def Obligations.LdcLoadsTheFiveConstants : Prop :=
  ∀ (s : State) (rd : Reg) (k : BitVec 8),
    (k.toNat ≤ 4 → HasWord (.ldc rd k) (wordOf 0x10 rd 0 0 0 k.toNat) ∧
      ∃ t, exec (.ldc rd k) s = .next t
        ∧ (t.reg rd).toNat = [0, 1, 2 ^ 128 - 1, 2 ^ 127, 2 ^ 127 - 1].getD k.toNat 0
        ∧ SameOutside [rd] s t) ∧
    (5 ≤ k.toNat → ∃ t, exec (.ldc rd k) s = .next t
      ∧ Latches .illegalCommand (encode (.ldc rd k)) s t)

/-- MOV copies the register, and ZEXT8, ZEXT16, ZEXT32, ZEXT64 its low bits with zeros above. MOV rd,
rs1 writes the value of rs1; ZEXTw writes u(a) mod 2^w for w = 8, 16, 32, 64, so the bits of a
above the width are ignored. Each has the R1 word of its opcode, raises no fault and changes only
rd. Basis: R93, R94, R95, R96, R97. -/
def Obligations.MovAndZextCopyLowBits : Prop :=
  ∀ (s : State) (rd rs1 : Reg),
    HasWord (.mov rd rs1) (wordR1 0x11 rd rs1) ∧
    (∃ t, exec (.mov rd rs1) s = .next t ∧ (t.reg rd).toNat = (s.reg rs1).toNat
        ∧ SameOutside [rd] s t) ∧
    HasWord (.zext8 rd rs1) (wordR1 0x12 rd rs1) ∧
    (∃ t, exec (.zext8 rd rs1) s = .next t ∧ (t.reg rd).toNat = (s.reg rs1).toNat % 2 ^ 8
        ∧ SameOutside [rd] s t) ∧
    HasWord (.zext16 rd rs1) (wordR1 0x13 rd rs1) ∧
    (∃ t, exec (.zext16 rd rs1) s = .next t ∧ (t.reg rd).toNat = (s.reg rs1).toNat % 2 ^ 16
        ∧ SameOutside [rd] s t) ∧
    HasWord (.zext32 rd rs1) (wordR1 0x14 rd rs1) ∧
    (∃ t, exec (.zext32 rd rs1) s = .next t ∧ (t.reg rd).toNat = (s.reg rs1).toNat % 2 ^ 32
        ∧ SameOutside [rd] s t) ∧
    HasWord (.zext64 rd rs1) (wordR1 0x15 rd rs1) ∧
    (∃ t, exec (.zext64 rd rs1) s = .next t ∧ (t.reg rd).toNat = (s.reg rs1).toNat % 2 ^ 64
        ∧ SameOutside [rd] s t)

/-- SEXT8, SEXT16, SEXT32, SEXT64 write the signed reading of the low bits. SEXTw writes the value
whose signed reading is the signed reading of the low w bits of a, for w = 8, 16, 32, 64 (the
balanced residue of u(a) modulo 2^w). Each has the R1 word of its opcode, raises no fault and
changes only rd. Basis: R98, R99, R100, R101. -/
def Obligations.SextSignExtendsLowBits : Prop :=
  ∀ (s : State) (rd rs1 : Reg),
    HasWord (.sext8 rd rs1) (wordR1 0x16 rd rs1) ∧
    (∃ t, exec (.sext8 rd rs1) s = .next t ∧ (t.reg rd).toInt = Int.bmod (s.reg rs1).toNat (2 ^ 8)
        ∧ SameOutside [rd] s t) ∧
    HasWord (.sext16 rd rs1) (wordR1 0x17 rd rs1) ∧
    (∃ t, exec (.sext16 rd rs1) s = .next t ∧ (t.reg rd).toInt = Int.bmod (s.reg rs1).toNat
        (2 ^ 16) ∧ SameOutside [rd] s t) ∧
    HasWord (.sext32 rd rs1) (wordR1 0x18 rd rs1) ∧
    (∃ t, exec (.sext32 rd rs1) s = .next t ∧ (t.reg rd).toInt = Int.bmod (s.reg rs1).toNat
        (2 ^ 32) ∧ SameOutside [rd] s t) ∧
    HasWord (.sext64 rd rs1) (wordR1 0x19 rd rs1) ∧
    (∃ t, exec (.sext64 rd rs1) s = .next t ∧ (t.reg rd).toInt = Int.bmod (s.reg rs1).toNat
        (2 ^ 64) ∧ SameOutside [rd] s t)

/-- CVT.U.F64 and CVT.S.F64: exact on natural numbers below 2^64 and their negatives, total and pure
elsewhere. The conversion function f64ToU128 gives n on every pattern that encodes a natural
number n below 2^64, and is a function of the 64-bit pattern alone, unconstrained elsewhere.
CVT.U.F64 writes it applied to the low limb of a (the high limb is ignored); CVT.S.F64 applies it
to the pattern with the sign bit cleared and negates the result when the sign bit was set, so it
writes -n or n for a magnitude n below 2^64. No fault for any pattern; only rd changes. Basis:
R104, R107, R109. -/
def Obligations.DoubleToIntegerConversions : Prop :=
  (∀ (p : Limb) (n : Nat), F64IsNat p n → n < 2 ^ 64 → (f64ToU128 p).toNat = n) ∧
  ∀ (s : State) (rd rs1 : Reg),
    HasWord (.cvtUF64 rd rs1) (wordR1 0x1A rd rs1) ∧
    (∃ t, exec (.cvtUF64 rd rs1) s = .next t ∧ t.reg rd = f64ToU128 (lo (s.reg rs1))
      ∧ SameOutside [rd] s t) ∧
    HasWord (.cvtSF64 rd rs1) (wordR1 0x1C rd rs1) ∧
    (∃ t, exec (.cvtSF64 rd rs1) s = .next t
      ∧ (t.reg rd).toNat =
          (if (lo (s.reg rs1)).getLsbD 63
            then 2 ^ 128 - (f64ToU128 (lo (s.reg rs1) &&& 0x7FFFFFFFFFFFFFFF)).toNat
            else (f64ToU128 (lo (s.reg rs1) &&& 0x7FFFFFFFFFFFFFFF)).toNat) % 2 ^ 128
      ∧ (∀ n, F64IsNat (lo (s.reg rs1) &&& 0x7FFFFFFFFFFFFFFF) n → n < 2 ^ 64 →
          (t.reg rd).toInt = if (lo (s.reg rs1)).getLsbD 63 then -(n : Int) else n)
      ∧ SameOutside [rd] s t)

/-- CVT.F64.U and CVT.F64.S: exact up to 53 significant bits, total and pure elsewhere, high limb 0.
The conversion function u128ToF64 gives the zero pattern for 0 and, for u(v) > 0 with at most 53
significant bits and e = bitlen - 1, the pattern (e + 1023) * 2^52 + (u(v) * 2^52 div 2^e - 2^52);
it is a function of the value alone, unconstrained elsewhere. CVT.F64.U writes it to the low limb
and 0 to the high limb; CVT.F64.S applies it to the magnitude and sets the sign bit when a is
negative. No fault; only rd changes. Basis: R105, R106, R108. -/
def Obligations.IntegerToDoubleConversions : Prop :=
  (∀ v : Word, v.toNat = 0 → (u128ToF64 v).toNat = 0) ∧
  (∀ v : Word, 0 < v.toNat → AtMost53Bits v.toNat → (u128ToF64 v).toNat =
    (Nat.log2 v.toNat + 1023) * 2 ^ 52 + (v.toNat * 2 ^ 52 / 2 ^ Nat.log2 v.toNat - 2 ^ 52)) ∧
  ∀ (s : State) (rd rs1 : Reg),
    HasWord (.cvtF64U rd rs1) (wordR1 0x1B rd rs1) ∧
    (∃ t, exec (.cvtF64U rd rs1) s = .next t
      ∧ (t.reg rd).toNat = (u128ToF64 (s.reg rs1)).toNat ∧ SameOutside [rd] s t) ∧
    HasWord (.cvtF64S rd rs1) (wordR1 0x1D rd rs1) ∧
    (∃ t, exec (.cvtF64S rd rs1) s = .next t
      ∧ (t.reg rd).toNat =
          (if (s.reg rs1).toInt < 0
            then u128ToF64 (BitVec.ofNat 128 (s.reg rs1).toInt.natAbs) ||| 0x8000000000000000
            else u128ToF64 (s.reg rs1)).toNat
      ∧ SameOutside [rd] s t)

/-- An integer of at most 53 significant bits and magnitude below 2^64 survives conversion to double
and back. For u(a) below 2^64 with at most 53 significant bits, CVT.F64.U then CVT.U.F64 gives a
back; for the magnitude of s(a) below 2^64 with at most 53 significant bits, CVT.F64.S then
CVT.S.F64 gives a back, negative values included. Basis: 40_representation_conversion.md
R104-R109. -/
def Obligations.FloatRoundTripIsExact : Prop :=
  ∀ (s : State) (rd rd' rs1 : Reg),
    ((s.reg rs1).toNat < 2 ^ 64 → AtMost53Bits (s.reg rs1).toNat →
      ∃ t u, exec (.cvtF64U rd rs1) s = .next t ∧ exec (.cvtUF64 rd' rd) t = .next u
        ∧ u.reg rd' = s.reg rs1) ∧
    ((s.reg rs1).toInt.natAbs < 2 ^ 64 → AtMost53Bits (s.reg rs1).toInt.natAbs →
      ∃ t u, exec (.cvtF64S rd rs1) s = .next t ∧ exec (.cvtSF64 rd' rd) t = .next u
        ∧ u.reg rd' = s.reg rs1)

/-- AND, OR, XOR and NOT act on each of the 128 bits by itself. Bit i of the result of AND, OR, XOR is
the conjunction, disjunction, exclusive or of bit i of a and bit i of b, and bit i of NOT a is the
complement of bit i of a, for all 128 positions: no bit of another position or limb matters. Each
has the word of its opcode, raises no fault and changes only rd. Basis: R120, R121, R122, R123,
R124. -/
def Obligations.BitwiseCommandsActBitByBit : Prop :=
  ∀ (s : State) (rd rs1 rs2 : Reg),
    HasWord (.and rd rs1 rs2) (wordR2 0x20 rd rs1 rs2) ∧
    (∃ t, exec (.and rd rs1 rs2) s = .next t ∧ (∀ i, i < 128 → (t.reg rd).getLsbD i =
        ((s.reg rs1).getLsbD i && (s.reg rs2).getLsbD i)) ∧ SameOutside [rd] s t) ∧
    HasWord (.or rd rs1 rs2) (wordR2 0x21 rd rs1 rs2) ∧
    (∃ t, exec (.or rd rs1 rs2) s = .next t ∧ (∀ i, i < 128 → (t.reg rd).getLsbD i =
        ((s.reg rs1).getLsbD i || (s.reg rs2).getLsbD i)) ∧ SameOutside [rd] s t) ∧
    HasWord (.xor rd rs1 rs2) (wordR2 0x22 rd rs1 rs2) ∧
    (∃ t, exec (.xor rd rs1 rs2) s = .next t ∧ (∀ i, i < 128 → (t.reg rd).getLsbD i =
        ((s.reg rs1).getLsbD i ^^ (s.reg rs2).getLsbD i)) ∧ SameOutside [rd] s t) ∧
    HasWord (.not rd rs1) (wordR1 0x23 rd rs1) ∧
    (∃ t, exec (.not rd rs1) s = .next t ∧ (∀ i, i < 128 → (t.reg rd).getLsbD i
        = !(s.reg rs1).getLsbD i) ∧ SameOutside [rd] s t)

/-- SHL, SHR, SAR shift by the whole value of the amount register, and draw a free value from 128 up.
With d = u(b): for d < 128, SHL writes u(a) * 2^d mod 2^128, SHR u(a) div 2^d, SAR the value whose
signed reading is floor(s(a) / 2^d); for d of 128 or more the value written is the unconstrained
draw cfg.shiftDraw(opcode, a, b). No fault in either case; only rd changes. Basis: R126, R127,
R128, R131. -/
def Obligations.ShiftsByRegister : Prop :=
  ∀ (s : State) (rd rs1 rs2 : Reg),
    HasWord (.shl rd rs1 rs2) (wordR2 0x24 rd rs1 rs2) ∧
    ((s.reg rs2).toNat < 128 → ∃ t, exec (.shl rd rs1 rs2) s = .next t ∧ (t.reg rd).toNat =
        (s.reg rs1).toNat * 2 ^ (s.reg rs2).toNat % 2 ^ 128 ∧ SameOutside [rd] s t) ∧
    (128 ≤ (s.reg rs2).toNat → ∃ t, exec (.shl rd rs1 rs2) s = .next t ∧ t.reg rd
        = Config.shiftDraw 0x24 (s.reg rs1) (s.reg rs2) ∧ SameOutside [rd] s t) ∧
    HasWord (.shr rd rs1 rs2) (wordR2 0x25 rd rs1 rs2) ∧
    ((s.reg rs2).toNat < 128 → ∃ t, exec (.shr rd rs1 rs2) s = .next t ∧ (t.reg rd).toNat =
        (s.reg rs1).toNat / 2 ^ (s.reg rs2).toNat ∧ SameOutside [rd] s t) ∧
    (128 ≤ (s.reg rs2).toNat → ∃ t, exec (.shr rd rs1 rs2) s = .next t ∧ t.reg rd
        = Config.shiftDraw 0x25 (s.reg rs1) (s.reg rs2) ∧ SameOutside [rd] s t) ∧
    HasWord (.sar rd rs1 rs2) (wordR2 0x26 rd rs1 rs2) ∧
    ((s.reg rs2).toNat < 128 → ∃ t, exec (.sar rd rs1 rs2) s = .next t ∧ (t.reg rd).toInt =
        (s.reg rs1).toInt / 2 ^ (s.reg rs2).toNat ∧ SameOutside [rd] s t) ∧
    (128 ≤ (s.reg rs2).toNat → ∃ t, exec (.sar rd rs1 rs2) s = .next t ∧ t.reg rd
        = Config.shiftDraw 0x26 (s.reg rs1) (s.reg rs2) ∧ SameOutside [rd] s t)

/-- SHLI, SHRI, SARI shift by the 7-bit immediate. For every shift amount d from 0 to 127, SHLI writes
u(a) * 2^d mod 2^128, SHRI u(a) div 2^d, SARI the value whose signed reading is floor(s(a) / 2^d).
Each has the RI word of its opcode with d in bits 30:24, raises no fault and changes only rd.
Basis: R132, R133, R134. -/
def Obligations.ShiftsByImmediate : Prop :=
  ∀ (s : State) (rd rs1 : Reg) (d : BitVec 7),
    HasWord (.shli rd rs1 d) (wordRI 0x27 rd rs1 d) ∧
    (∃ t, exec (.shli rd rs1 d) s = .next t ∧ (t.reg rd).toNat =
        (s.reg rs1).toNat * 2 ^ d.toNat % 2 ^ 128 ∧ SameOutside [rd] s t) ∧
    HasWord (.shri rd rs1 d) (wordRI 0x28 rd rs1 d) ∧
    (∃ t, exec (.shri rd rs1 d) s = .next t ∧ (t.reg rd).toNat = (s.reg rs1).toNat / 2 ^ d.toNat
        ∧ SameOutside [rd] s t) ∧
    HasWord (.sari rd rs1 d) (wordRI 0x29 rd rs1 d) ∧
    (∃ t, exec (.sari rd rs1 d) s = .next t ∧ (t.reg rd).toInt = (s.reg rs1).toInt / 2 ^ d.toNat
        ∧ SameOutside [rd] s t)

/-- The limb-level shift paths give the shifted value for every amount from 0 to 127. The left,
logical right and arithmetic right shift paths, with one cross-limb term below 64 and limb
relocation from 64 on, give u(a) * 2^d mod 2^128, u(a) div 2^d and the pattern of floor(s(a) /
2^d), for every pattern a and every d below 128, the boundaries 0, 63, 64 and 127 included. Basis:
41_bitwise_shift_compare.md R129, 41_bitwise_shift_compare.md R130, 00_scope.md R13. -/
def Obligations.ShiftPathsAgreeWithTheShifts : Prop :=
  ∀ (a : Word) (d : Nat), d < 128 →
    (shiftLeftPath a d).toNat = a.toNat * 2 ^ d % 2 ^ 128 ∧
    (shiftRightPath a d).toNat = a.toNat / 2 ^ d ∧
    (shiftArithPath a d).toInt = a.toInt / 2 ^ d

/-- EQ, NE, U.LT, U.LE, U.GT, U.GE write One or Zero, and U.CMP -1, 0 or 1, by the unsigned readings.
EQ and NE compare the two patterns; U.LT, U.LE, U.GT, U.GE compare u(a) and u(b); the result is
One for true and Zero for false. U.CMP writes the value whose signed reading is -1, 0 or 1. Each
has the R2 word of its opcode, raises no fault and changes only rd. Basis: R141, R142, R143, R144,
R145, R146, R147. -/
def Obligations.EqualityAndUnsignedComparisons : Prop :=
  ∀ (s : State) (rd rs1 rs2 : Reg),
    HasWord (.eq rd rs1 rs2) (wordR2 0x30 rd rs1 rs2) ∧
    (∃ t, exec (.eq rd rs1 rs2) s = .next t ∧ (t.reg rd).toNat = (if (s.reg rs1) = (s.reg rs2)
        then 1 else 0) ∧ SameOutside [rd] s t) ∧
    HasWord (.ne rd rs1 rs2) (wordR2 0x31 rd rs1 rs2) ∧
    (∃ t, exec (.ne rd rs1 rs2) s = .next t ∧ (t.reg rd).toNat = (if (s.reg rs1) ≠ (s.reg rs2)
        then 1 else 0) ∧ SameOutside [rd] s t) ∧
    HasWord (.uLt rd rs1 rs2) (wordR2 0x32 rd rs1 rs2) ∧
    (∃ t, exec (.uLt rd rs1 rs2) s = .next t ∧ (t.reg rd).toNat = (if (s.reg rs1).toNat <
        (s.reg rs2).toNat then 1 else 0) ∧ SameOutside [rd] s t) ∧
    HasWord (.uLe rd rs1 rs2) (wordR2 0x33 rd rs1 rs2) ∧
    (∃ t, exec (.uLe rd rs1 rs2) s = .next t ∧ (t.reg rd).toNat = (if (s.reg rs1).toNat ≤
        (s.reg rs2).toNat then 1 else 0) ∧ SameOutside [rd] s t) ∧
    HasWord (.uGt rd rs1 rs2) (wordR2 0x34 rd rs1 rs2) ∧
    (∃ t, exec (.uGt rd rs1 rs2) s = .next t ∧ (t.reg rd).toNat = (if (s.reg rs2).toNat <
        (s.reg rs1).toNat then 1 else 0) ∧ SameOutside [rd] s t) ∧
    HasWord (.uGe rd rs1 rs2) (wordR2 0x35 rd rs1 rs2) ∧
    (∃ t, exec (.uGe rd rs1 rs2) s = .next t ∧ (t.reg rd).toNat = (if (s.reg rs2).toNat ≤
        (s.reg rs1).toNat then 1 else 0) ∧ SameOutside [rd] s t) ∧
    HasWord (.uCmp rd rs1 rs2) (wordR2 0x36 rd rs1 rs2) ∧
    (∃ t, exec (.uCmp rd rs1 rs2) s = .next t ∧ (t.reg rd).toInt = (if (s.reg rs1).toNat <
        (s.reg rs2).toNat then -1 else if (s.reg rs1).toNat = (s.reg rs2).toNat then 0 else 1)
        ∧ SameOutside [rd] s t)

/-- S.LT, S.LE, S.GT, S.GE write One or Zero, and S.CMP -1, 0 or 1, by the signed readings. S.LT,
S.LE, S.GT, S.GE compare s(a) and s(b) and write One for true and Zero for false; S.CMP writes the
value whose signed reading is -1, 0 or 1. Each has the R2 word of its opcode, raises no fault and
changes only rd. Basis: R292, R293, R294, R295, R296. -/
def Obligations.SignedComparisons : Prop :=
  ∀ (s : State) (rd rs1 rs2 : Reg),
    HasWord (.sLt rd rs1 rs2) (wordR2 0x39 rd rs1 rs2) ∧
    (∃ t, exec (.sLt rd rs1 rs2) s = .next t ∧ (t.reg rd).toNat = (if (s.reg rs1).toInt <
        (s.reg rs2).toInt then 1 else 0) ∧ SameOutside [rd] s t) ∧
    HasWord (.sLe rd rs1 rs2) (wordR2 0x3A rd rs1 rs2) ∧
    (∃ t, exec (.sLe rd rs1 rs2) s = .next t ∧ (t.reg rd).toNat = (if (s.reg rs1).toInt ≤
        (s.reg rs2).toInt then 1 else 0) ∧ SameOutside [rd] s t) ∧
    HasWord (.sGt rd rs1 rs2) (wordR2 0x3B rd rs1 rs2) ∧
    (∃ t, exec (.sGt rd rs1 rs2) s = .next t ∧ (t.reg rd).toNat = (if (s.reg rs2).toInt <
        (s.reg rs1).toInt then 1 else 0) ∧ SameOutside [rd] s t) ∧
    HasWord (.sGe rd rs1 rs2) (wordR2 0x3C rd rs1 rs2) ∧
    (∃ t, exec (.sGe rd rs1 rs2) s = .next t ∧ (t.reg rd).toNat = (if (s.reg rs2).toInt ≤
        (s.reg rs1).toInt then 1 else 0) ∧ SameOutside [rd] s t) ∧
    HasWord (.sCmp rd rs1 rs2) (wordR2 0x3D rd rs1 rs2) ∧
    (∃ t, exec (.sCmp rd rs1 rs2) s = .next t ∧ (t.reg rd).toInt = (if (s.reg rs1).toInt <
        (s.reg rs2).toInt then -1 else if (s.reg rs1).toInt = (s.reg rs2).toInt then 0 else 1)
        ∧ SameOutside [rd] s t)

/-- U.MIN, U.MAX, S.MIN, S.MAX write the smaller or larger operand by their reading. U.MIN and U.MAX
write the operand with the smaller or larger unsigned reading, S.MIN and S.MAX the one with the
smaller or larger signed reading; with equal operands either is the same pattern. Each has the R2
word of its opcode, raises no fault and changes only rd. Basis: R148, R149, R297, R298. -/
def Obligations.MinimumAndMaximum : Prop :=
  ∀ (s : State) (rd rs1 rs2 : Reg),
    HasWord (.uMin rd rs1 rs2) (wordR2 0x37 rd rs1 rs2) ∧
    (∃ t, exec (.uMin rd rs1 rs2) s = .next t ∧ (t.reg rd).toNat = min (s.reg rs1).toNat
        (s.reg rs2).toNat ∧ SameOutside [rd] s t) ∧
    HasWord (.uMax rd rs1 rs2) (wordR2 0x38 rd rs1 rs2) ∧
    (∃ t, exec (.uMax rd rs1 rs2) s = .next t ∧ (t.reg rd).toNat = max (s.reg rs1).toNat
        (s.reg rs2).toNat ∧ SameOutside [rd] s t) ∧
    HasWord (.sMin rd rs1 rs2) (wordR2 0x3E rd rs1 rs2) ∧
    (∃ t, exec (.sMin rd rs1 rs2) s = .next t ∧ (t.reg rd).toInt = min (s.reg rs1).toInt
        (s.reg rs2).toInt ∧ SameOutside [rd] s t) ∧
    HasWord (.sMax rd rs1 rs2) (wordR2 0x3F rd rs1 rs2) ∧
    (∃ t, exec (.sMax rd rs1 rs2) s = .next t ∧ (t.reg rd).toInt = max (s.reg rs1).toInt
        (s.reg rs2).toInt ∧ SameOutside [rd] s t)

/-- ADD, SUB, NEG, INC, DEC write the sum or difference modulo 2^128, with no fault. ADD writes u(a) +
u(b), SUB u(a) - u(b), NEG 2^128 - u(a), INC u(a) + 1, DEC u(a) - 1, each reduced modulo 2^128;
carries and borrows out of bit 127 are discarded. Each has the word of its opcode, raises no fault
and changes only rd. Basis: R160, R161, R162, R163, R164. -/
def Obligations.AdditionAndSubtractionWrap : Prop :=
  ∀ (s : State) (rd rs1 rs2 : Reg),
    HasWord (.add rd rs1 rs2) (wordR2 0x40 rd rs1 rs2) ∧
    (∃ t, exec (.add rd rs1 rs2) s = .next t ∧ (t.reg rd).toNat = ((s.reg rs1).toNat +
        (s.reg rs2).toNat) % 2 ^ 128 ∧ SameOutside [rd] s t) ∧
    HasWord (.sub rd rs1 rs2) (wordR2 0x41 rd rs1 rs2) ∧
    (∃ t, exec (.sub rd rs1 rs2) s = .next t ∧ ((t.reg rd).toNat : Int) =
        (((s.reg rs1).toNat : Int) - (s.reg rs2).toNat) % 2 ^ 128 ∧ SameOutside [rd] s t) ∧
    HasWord (.neg rd rs1) (wordR1 0x42 rd rs1) ∧
    (∃ t, exec (.neg rd rs1) s = .next t ∧ (t.reg rd).toNat = (2 ^ 128 -
        (s.reg rs1).toNat) % 2 ^ 128 ∧ SameOutside [rd] s t) ∧
    HasWord (.inc rd rs1) (wordR1 0x43 rd rs1) ∧
    (∃ t, exec (.inc rd rs1) s = .next t ∧ (t.reg rd).toNat = ((s.reg rs1).toNat + 1) % 2 ^ 128
        ∧ SameOutside [rd] s t) ∧
    HasWord (.dec rd rs1) (wordR1 0x44 rd rs1) ∧
    (∃ t, exec (.dec rd rs1) s = .next t ∧ ((t.reg rd).toNat : Int) =
        (((s.reg rs1).toNat : Int) - 1) % 2 ^ 128 ∧ SameOutside [rd] s t)

/-- (a + b) - b = a for all patterns, run as ADD and then SUB. For all values, ADD rd, rs1, rs2 and
then SUB rd2, rd, rs2 leaves in rd2 the value rs1 had, provided ADD did not overwrite rs2 (rd is
not rs2); and the same law of the two operations on patterns with no proviso. Basis: R168. -/
def Obligations.SubtractionUndoesAddition : Prop :=
  (∀ a b : Word, subWord (addWord a b) b = a) ∧
  ∀ (s : State) (rd rd' rs1 rs2 : Reg), rd ≠ rs2 →
    ∃ t u, exec (.add rd rs1 rs2) s = .next t ∧ exec (.sub rd' rd rs2) t = .next u
      ∧ u.reg rd' = s.reg rs1

/-- The limb-level adder, subtractor and comparators give the sum, the difference and the two orders.
The adder (carry found by a wraparound comparison) gives u(a) + u(b) mod 2^128 and the subtractor
(borrow) u(a) - u(b) mod 2^128; negation is the subtractor with Zero as first operand and also
complement plus one through the adder; increment and decrement are the adder and subtractor with
One. Comparing high limbs unsigned and tie-breaking on the low limbs decides u(a) < u(b);
comparing high limbs as signed 64-bit numbers, with the unsigned low-limb comparison only when the
high limbs match, decides s(a) < s(b). Basis: 42_add_sub.md R166, 42_add_sub.md R167,
41_bitwise_shift_compare.md R150, 47_signed.md R299. -/
def Obligations.AdderAndComparatorPathsAgree : Prop :=
  ∀ a b : Word,
    (adderPath a b).toNat = (a.toNat + b.toNat) % 2 ^ 128 ∧
    ((subtractorPath a b).toNat : Int) = ((a.toNat : Int) - b.toNat) % 2 ^ 128 ∧
    subtractorPath zeroWord b = neg b ∧ adderPath (~~~ b) oneWord = neg b ∧
    adderPath a oneWord = pat (uVal a + 1) ∧ subtractorPath a oneWord = pat (uVal a - 1) ∧
    (unsignedLessPath a b = true ↔ a.toNat < b.toNat) ∧
    (signedLessPath a b = true ↔ a.toInt < b.toInt)

/-- MUL, MUL64, SQR, CUBE write the product modulo 2^128. MUL writes u(a) * u(b), MUL64 u(a) times the
low limb of b (the high limb ignored), SQR u(a)^2, CUBE u(a)^3, each modulo 2^128. Each has the
word of its opcode, raises no fault and changes only rd. Basis: R180, R181, R182, R183. -/
def Obligations.TruncatingProducts : Prop :=
  ∀ (s : State) (rd rs1 rs2 : Reg),
    HasWord (.mul rd rs1 rs2) (wordR2 0x50 rd rs1 rs2) ∧
    (∃ t, exec (.mul rd rs1 rs2) s = .next t ∧ (t.reg rd).toNat = (s.reg rs1).toNat *
        (s.reg rs2).toNat % 2 ^ 128 ∧ SameOutside [rd] s t) ∧
    HasWord (.mul64 rd rs1 rs2) (wordR2 0x51 rd rs1 rs2) ∧
    (∃ t, exec (.mul64 rd rs1 rs2) s = .next t ∧ (t.reg rd).toNat = (s.reg rs1).toNat *
        ((s.reg rs2).toNat % 2 ^ 64) % 2 ^ 128 ∧ SameOutside [rd] s t) ∧
    HasWord (.sqr rd rs1) (wordR1 0x52 rd rs1) ∧
    (∃ t, exec (.sqr rd rs1) s = .next t ∧ (t.reg rd).toNat = (s.reg rs1).toNat ^ 2 % 2 ^ 128
        ∧ SameOutside [rd] s t) ∧
    HasWord (.cube rd rs1) (wordR1 0x53 rd rs1) ∧
    (∃ t, exec (.cube rd rs1) s = .next t ∧ (t.reg rd).toNat = (s.reg rs1).toNat ^ 3 % 2 ^ 128
        ∧ SameOutside [rd] s t)

/-- S.MUL writes the signed product modulo 2^128, by magnitudes and sign, the same pattern as MUL.
S.MUL writes the product of the magnitudes, negated when the signs differ; its signed reading is
the value in [-2^127, 2^127) congruent to s(a) * s(b), and the pattern is the one MUL writes. It
has the R2 word of opcode 0x70, raises no fault and changes only rd. Basis: R300. -/
def Obligations.SignedProduct : Prop :=
  ∀ (s : State) (rd rs1 rs2 : Reg),
    HasWord (.sMul rd rs1 rs2) (wordR2 0x70 rd rs1 rs2) ∧
    ∃ t u, exec (.sMul rd rs1 rs2) s = .next t ∧ exec (.mul rd rs1 rs2) s = .next u
      ∧ (t.reg rd).toInt = Int.bmod ((s.reg rs1).toInt * (s.reg rs2).toInt) (2 ^ 128)
      ∧ ((t.reg rd).toNat : Int) =
          (if ((s.reg rs1).toInt < 0 ↔ (s.reg rs2).toInt < 0)
            then ((s.reg rs1).toInt.natAbs * (s.reg rs2).toInt.natAbs : Int)
            else -((s.reg rs1).toInt.natAbs * (s.reg rs2).toInt.natAbs : Int)) % 2 ^ 128
      ∧ t.reg rd = u.reg rd ∧ SameOutside [rd] s t

/-- ADD, SUB, NEG, INC, DEC, MUL, SQR, CUBE and POW also give the two's-complement result for signed
operands. For all patterns the pattern of s(a) * s(b) is the pattern of u(a) * u(b); and the
result of ADD, SUB, NEG, INC, DEC, MUL, SQR, CUBE and, for a non-negative exponent, POW read
signed is the unique value in [-2^127, 2^127) congruent modulo 2^128 to s(a) + s(b), s(a) - s(b),
-s(a), s(a) + 1, s(a) - 1, s(a) * s(b), s(a)^2, s(a)^3, s(a)^u(b). Basis: R165, R185. -/
def Obligations.SignAgnosticCommandsAreTheSignedOperations : Prop :=
  (∀ a b : Word, pat (sVal a * sVal b) = pat (uVal a * uVal b)) ∧
  ∀ (s : State) (rd rs1 rs2 : Reg),
    (∃ t, exec (.add rd rs1 rs2) s = .next t ∧ (t.reg rd).toInt = Int.bmod ((s.reg rs1).toInt +
        (s.reg rs2).toInt) (2 ^ 128) ∧ SameOutside [rd] s t) ∧
    (∃ t, exec (.sub rd rs1 rs2) s = .next t ∧ (t.reg rd).toInt = Int.bmod ((s.reg rs1).toInt -
        (s.reg rs2).toInt) (2 ^ 128) ∧ SameOutside [rd] s t) ∧
    (∃ t, exec (.neg rd rs1) s = .next t ∧ (t.reg rd).toInt = Int.bmod (-(s.reg rs1).toInt)
        (2 ^ 128) ∧ SameOutside [rd] s t) ∧
    (∃ t, exec (.inc rd rs1) s = .next t ∧ (t.reg rd).toInt = Int.bmod ((s.reg rs1).toInt + 1)
        (2 ^ 128) ∧ SameOutside [rd] s t) ∧
    (∃ t, exec (.dec rd rs1) s = .next t ∧ (t.reg rd).toInt = Int.bmod ((s.reg rs1).toInt - 1)
        (2 ^ 128) ∧ SameOutside [rd] s t) ∧
    (∃ t, exec (.mul rd rs1 rs2) s = .next t ∧ (t.reg rd).toInt = Int.bmod ((s.reg rs1).toInt *
        (s.reg rs2).toInt) (2 ^ 128) ∧ SameOutside [rd] s t) ∧
    (∃ t, exec (.sqr rd rs1) s = .next t ∧ (t.reg rd).toInt = Int.bmod ((s.reg rs1).toInt ^ 2)
        (2 ^ 128) ∧ SameOutside [rd] s t) ∧
    (∃ t, exec (.cube rd rs1) s = .next t ∧ (t.reg rd).toInt = Int.bmod ((s.reg rs1).toInt ^ 3)
        (2 ^ 128) ∧ SameOutside [rd] s t) ∧
    (0 ≤ (s.reg rs2).toInt → ∃ t, exec (.pow rd rs1 rs2) s = .next t ∧ (t.reg rd).toInt = Int.bmod
        ((s.reg rs1).toInt ^ (s.reg rs2).toNat) (2 ^ 128) ∧ SameOutside [rd] s t)

/-- POW writes u(a)^u(b) modulo 2^128, with 0^0 = 1, and DomainError for a negative exponent. For a
non-negative exponent POW writes u(a)^u(b) mod 2^128 (1 for exponent 0, base 0 included) and
changes only rd; for a negative exponent it latches DomainError with its own word and writes no
register. It has the R2 word of opcode 0x54. Basis: R184. -/
def Obligations.PowerWrapsAndRejectsNegativeExponent : Prop :=
  ∀ (s : State) (rd rs1 rs2 : Reg),
    HasWord (.pow rd rs1 rs2) (wordR2 0x54 rd rs1 rs2) ∧
    (0 ≤ (s.reg rs2).toInt → ∃ t, exec (.pow rd rs1 rs2) s = .next t ∧ (t.reg rd).toNat =
        (s.reg rs1).toNat ^ (s.reg rs2).toNat % 2 ^ 128 ∧ SameOutside [rd] s t) ∧
    ((s.reg rs2).toInt < 0 → ∃ t, exec (.pow rd rs1 rs2) s = .next t ∧ Latches .domainError
        (encode (.pow rd rs1 rs2)) s t)

/-- Every multiplier datapath gives the exact or the truncated product. The 64 by 64 path gives the
exact product of two limbs, the widening path the exact 256-bit product of two values, and the 128
by 64, 128 by 128, cube and square-and-multiply paths the product or power modulo 2^128, for all
operands. Basis: 43_multiply.md R186-R190. -/
def Obligations.MultiplierPathsAgree : Prop :=
  (∀ x y : Limb, (mul64Path x y).toNat = x.toNat * y.toNat) ∧
  (∀ a b : Word, (mulWidePath a b).toNat = a.toNat * b.toNat) ∧
  (∀ (a : Word) (k : Limb), (mul128By64Path a k).toNat = a.toNat * k.toNat % 2 ^ 128) ∧
  (∀ a b : Word, (mul128Path a b).toNat = a.toNat * b.toNat % 2 ^ 128) ∧
  (∀ a : Word, (cubePath a).toNat = a.toNat ^ 3 % 2 ^ 128) ∧
  (∀ a b : Word, (powPath a b).toNat = a.toNat ^ b.toNat % 2 ^ 128)

/-- U.DIV and U.REM write the quotient and the remainder, and DivideByZero for a zero divisor. For a
non-zero divisor U.DIV writes u(a) div u(b) and U.REM u(a) mod u(b), which is a - (a/b)*b, and
only rd changes; for a zero divisor each latches DivideByZero with its own word, for every
dividend, and writes no register. Each has the R2 word of its opcode. Basis: R210, R211. -/
def Obligations.UnsignedQuotientAndRemainder : Prop :=
  ∀ (s : State) (rd rs1 rs2 : Reg),
    HasWord (.uDiv rd rs1 rs2) (wordR2 0x60 rd rs1 rs2) ∧
    ((s.reg rs2).toNat ≠ 0 → ∃ t, exec (.uDiv rd rs1 rs2) s = .next t ∧ (t.reg rd).toNat =
        (s.reg rs1).toNat / (s.reg rs2).toNat ∧ SameOutside [rd] s t) ∧
    ((s.reg rs2).toNat = 0 → ∃ t, exec (.uDiv rd rs1 rs2) s = .next t ∧ Latches .divideByZero
        (encode (.uDiv rd rs1 rs2)) s t) ∧
    HasWord (.uRem rd rs1 rs2) (wordR2 0x61 rd rs1 rs2) ∧
    ((s.reg rs2).toNat ≠ 0 → ∃ t, exec (.uRem rd rs1 rs2) s = .next t ∧ (t.reg rd).toNat =
        (s.reg rs1).toNat % (s.reg rs2).toNat ∧ (t.reg rd).toNat = (s.reg rs1).toNat -
        (s.reg rs1).toNat / (s.reg rs2).toNat * (s.reg rs2).toNat ∧ SameOutside [rd] s t) ∧
    ((s.reg rs2).toNat = 0 → ∃ t, exec (.uRem rd rs1 rs2) s = .next t ∧ Latches .divideByZero
        (encode (.uRem rd rs1 rs2)) s t)

/-- U.DIVREM writes quotient and remainder of the old operands; the division law holds; the two
faults. For different destinations and a non-zero divisor, U.DIVREM writes u(a) div u(b) to rd and
u(a) mod u(b) to rd2, both from the values read before the writes, whichever registers coincide
with sources; quotient * u(b) + remainder = u(a) and remainder < u(b). A zero divisor latches
DivideByZero, equal destinations latch IllegalCommand; neither writes a register. The word has rd2
at bits 23:20. Basis: R212, R213. -/
def Obligations.UnsignedDivRemPair : Prop :=
  ∀ (s : State) (rd rd2 rs1 rs2 : Reg),
    (rd ≠ rd2 → HasWord (.uDivRem rd rd2 rs1 rs2) (wordR2D 0x62 rd rd2 rs1 rs2)) ∧
    (rd ≠ rd2 → (s.reg rs2).toNat ≠ 0 → ∃ t, exec (.uDivRem rd rd2 rs1 rs2) s = .next t ∧
        (t.reg rd).toNat = (s.reg rs1).toNat / (s.reg rs2).toNat ∧ (t.reg rd2).toNat =
        (s.reg rs1).toNat % (s.reg rs2).toNat
      ∧ (t.reg rd).toNat * (s.reg rs2).toNat + (t.reg rd2).toNat = (s.reg rs1).toNat ∧
          (t.reg rd2).toNat < (s.reg rs2).toNat ∧ SameOutside [rd, rd2] s t) ∧
    (rd ≠ rd2 → (s.reg rs2).toNat = 0 → ∃ t, exec (.uDivRem rd rd2 rs1 rs2) s = .next t
        ∧ Latches .divideByZero (encode (.uDivRem rd rd2 rs1 rs2)) s t) ∧
    (rd = rd2 → ∃ t, exec (.uDivRem rd rd2 rs1 rs2) s = .next t ∧ Latches .illegalCommand (encode
        (.uDivRem rd rd2 rs1 rs2)) s t)

/-- S.DIV and S.REM write the truncated quotient and its remainder, and DivideByZero for a zero
divisor. For a non-zero divisor S.DIV writes the pattern of s(a) / s(b) rounded toward zero
(MinValue / MinusOne wraps to MinValue) and S.REM the remainder with the sign of the dividend, and
only rd changes; for a zero divisor each latches DivideByZero with its own word and writes no
register. Each has the R2 word of its opcode. Basis: R301, R302. -/
def Obligations.SignedQuotientAndRemainder : Prop :=
  ∀ (s : State) (rd rs1 rs2 : Reg),
    HasWord (.sDiv rd rs1 rs2) (wordR2 0x71 rd rs1 rs2) ∧
    ((s.reg rs2).toNat ≠ 0 → ∃ t, exec (.sDiv rd rs1 rs2) s = .next t ∧ (t.reg rd).toInt
        = Int.bmod (Int.tdiv (s.reg rs1).toInt (s.reg rs2).toInt) (2 ^ 128)
        ∧ SameOutside [rd] s t) ∧
    ((s.reg rs2).toNat = 0 → ∃ t, exec (.sDiv rd rs1 rs2) s = .next t ∧ Latches .divideByZero
        (encode (.sDiv rd rs1 rs2)) s t) ∧
    HasWord (.sRem rd rs1 rs2) (wordR2 0x72 rd rs1 rs2) ∧
    ((s.reg rs2).toNat ≠ 0 → ∃ t, exec (.sRem rd rs1 rs2) s = .next t ∧ (t.reg rd).toInt
        = Int.tmod (s.reg rs1).toInt (s.reg rs2).toInt ∧ SameOutside [rd] s t) ∧
    ((s.reg rs2).toNat = 0 → ∃ t, exec (.sRem rd rs1 rs2) s = .next t ∧ Latches .divideByZero
        (encode (.sRem rd rs1 rs2)) s t)

/-- S.DIVREM writes the truncated quotient and the remainder of the old operands, with the signed
division law. For different destinations and a non-zero divisor, S.DIVREM writes the quotient of
S.DIV to rd and the remainder of S.REM to rd2, both from the values read before the writes;
quotient * s(b) + remainder = s(a) except for MinValue by MinusOne, where it holds modulo 2^128; a
non-zero remainder has the sign of the dividend. A zero divisor latches DivideByZero, equal
destinations latch IllegalCommand; neither writes a register. Basis: R303, R305. -/
def Obligations.SignedDivRemPair : Prop :=
  ∀ (s : State) (rd rd2 rs1 rs2 : Reg),
    (rd ≠ rd2 → HasWord (.sDivRem rd rd2 rs1 rs2) (wordR2D 0x73 rd rd2 rs1 rs2)) ∧
    (rd ≠ rd2 → (s.reg rs2).toNat ≠ 0 → ∃ t, exec (.sDivRem rd rd2 rs1 rs2) s = .next t ∧
        (t.reg rd).toInt = Int.bmod (Int.tdiv (s.reg rs1).toInt (s.reg rs2).toInt) (2 ^ 128) ∧
        (t.reg rd2).toInt = Int.tmod (s.reg rs1).toInt (s.reg rs2).toInt
      ∧ Int.bmod ((t.reg rd).toInt * (s.reg rs2).toInt + (t.reg rd2).toInt) (2 ^ 128) =
          (s.reg rs1).toInt
      ∧ (¬ ((s.reg rs1).toInt = -2 ^ 127 ∧ (s.reg rs2).toInt = -1) → (t.reg rd).toInt *
          (s.reg rs2).toInt + (t.reg rd2).toInt = (s.reg rs1).toInt)
      ∧ ((t.reg rd2).toInt = 0 ∨ ((t.reg rd2).toInt < 0 ↔ (s.reg rs1).toInt < 0))
          ∧ SameOutside [rd, rd2] s t) ∧
    (rd ≠ rd2 → (s.reg rs2).toNat = 0 → ∃ t, exec (.sDivRem rd rd2 rs1 rs2) s = .next t
        ∧ Latches .divideByZero (encode (.sDivRem rd rd2 rs1 rs2)) s t) ∧
    (rd = rd2 → ∃ t, exec (.sDivRem rd rd2 rs1 rs2) s = .next t ∧ Latches .illegalCommand (encode
        (.sDivRem rd rd2 rs1 rs2)) s t)

/-- S.ABS writes the magnitude; MinValue stays, which read unsigned is 2^127. S.ABS writes the pattern
whose unsigned reading is the absolute value of s(a), so MinValue is written unchanged. It has the
R1 word of opcode 0x74, raises no fault and changes only rd. Basis: R304. -/
def Obligations.AbsoluteValue : Prop :=
  ∀ (s : State) (rd rs1 : Reg),
    HasWord (.sAbs rd rs1) (wordR1 0x74 rd rs1) ∧
    (∃ t, exec (.sAbs rd rs1) s = .next t ∧ (t.reg rd).toNat = (s.reg rs1).toInt.natAbs
        ∧ SameOutside [rd] s t)

/-- The long-division engine gives quotient and remainder for every dividend and every non-zero
divisor. Whichever path the dispatch takes (dividend below divisor, native, schoolbook, Knuth
Algorithm D), the engine gives u(a) div u(b) and u(a) mod u(b); it gives nothing exactly for a
zero divisor. Basis: 44_divide.md R214-R218. -/
def Obligations.DivisionEngineAgrees : Prop :=
  ∀ a b : Word, (divisionEngine a b = none ↔ b.toNat = 0) ∧
    ∀ q r, divisionEngine a b = some (q, r) →
      q.toNat = a.toNat / b.toNat ∧ r.toNat = a.toNat % b.toNat

/-- The native, schoolbook and Knuth paths each divide exactly where the dispatch uses them. The
native path divides numbers below 2^64; the schoolbook path divides any 128-bit number by any
divisor from 1 to 2^32 - 1; Knuth Algorithm D, with its corrections and add-back, divides a
dividend of any number of digits from 4 up (8 for the modular unit) by any divisor from 2^32 to
2^128 - 1. Basis: 44_divide.md R215, 44_divide.md R216, 44_divide.md R217, 46_modular.md R266. -/
def Obligations.DivisionPathsDivide : Prop :=
  (∀ a b : Nat, a < 2 ^ 64 → 0 < b → b < 2 ^ 64 → nativePath a b = (a / b, a % b)) ∧
  (∀ a v : Nat, a < 2 ^ 128 → 0 < v → v < 2 ^ 32 → schoolbookPath a v = (a / v, a % v)) ∧
  (∀ len a v : Nat, 4 ≤ len → a < 2 ^ (32 * len) → 2 ^ 32 ≤ v → v < 2 ^ 128 →
    knuthPath len a v = (a / v, a % v))

/-- U.GCD writes the greatest common divisor, a zero operand being no error. The value U.GCD writes
divides both operands, every common divisor divides it (so it is the largest, unless both are
zero, where it is 0), gcd(a, 0) = a and gcd(0, b) = b. It has the R2 word of opcode 0x80, raises
no fault and changes only rd. Basis: R240, R241. -/
def Obligations.GreatestCommonDivisor : Prop :=
  ∀ (s : State) (rd rs1 rs2 : Reg),
    HasWord (.uGcd rd rs1 rs2) (wordR2 0x80 rd rs1 rs2) ∧
    (∃ t, exec (.uGcd rd rs1 rs2) s = .next t ∧ (t.reg rd).toNat ∣ (s.reg rs1).toNat ∧
        (t.reg rd).toNat ∣ (s.reg rs2).toNat
      ∧ (∀ d : Nat, d ∣ (s.reg rs1).toNat → d ∣ (s.reg rs2).toNat → d ∣ (t.reg rd).toNat ∧ (d ≤
          (t.reg rd).toNat ∨ ((s.reg rs1).toNat = 0 ∧ (s.reg rs2).toNat = 0)))
      ∧ ((s.reg rs2).toNat = 0 → (t.reg rd).toNat = (s.reg rs1).toNat) ∧ ((s.reg rs1).toNat = 0 →
          (t.reg rd).toNat = (s.reg rs2).toNat) ∧ SameOutside [rd] s t)

/-- The Lehmer GCD unit, as the model bounds it (log 17), gives the gcd of any two 128-bit numbers.
Ordering, width equalisation, Lehmer passes with Jebelean's test and the fallback step, and the
final Euclidean loop together give gcd(a, b) for all a and b below 2^128. What follows of the
procedure is the model's and not the spec's (log 17, DEDUCED): the two matrix combinations are
taken by absolute value, where R243 says that they are not negative, and the passes are bounded at
256, after which Euclid would finish, where R243 loops until the larger operand fits in 64 bits
and R247 bounds the passes; and the single-precision and Euclidean loops have a fuel, 128 and y +
1. Basis: 45_gcd.md R242-R246, notes/assumptions/17.md. -/
def Obligations.GcdUnitAgrees : Prop :=
  ∀ a b : Nat, a < 2 ^ 128 → b < 2 ^ 128 → gcdUnit a b = Nat.gcd a b

/-- U.MODADD, U.MODSUB, U.MODMUL write the residue of the exact result, and DivideByZero for a zero
modulus. For a non-zero modulus the value written is the unique residue in [0, u(m)) of u(a) +
u(b), u(a) - u(b), u(a) * u(b), computed over the unbounded integers, for operands of any size,
and only rd changes; a zero modulus latches DivideByZero with the command's own word and writes no
register. Each has the R3 word of its opcode. Basis: R260, R261, R262. -/
def Obligations.ModularSumDifferenceProduct : Prop :=
  ∀ (s : State) (rd rs1 rs2 rs3 : Reg),
    HasWord (.uModAdd rd rs1 rs2 rs3) (wordR3 0x90 rd rs1 rs2 rs3) ∧
    ((s.reg rs3).toNat ≠ 0 → ∃ t, exec (.uModAdd rd rs1 rs2 rs3) s = .next t ∧ (t.reg rd).toNat =
        ((s.reg rs1).toNat + (s.reg rs2).toNat) % (s.reg rs3).toNat ∧ (t.reg rd).toNat <
        (s.reg rs3).toNat ∧ SameOutside [rd] s t) ∧
    ((s.reg rs3).toNat = 0 → ∃ t, exec (.uModAdd rd rs1 rs2 rs3) s = .next t
        ∧ Latches .divideByZero (encode (.uModAdd rd rs1 rs2 rs3)) s t) ∧
    HasWord (.uModSub rd rs1 rs2 rs3) (wordR3 0x91 rd rs1 rs2 rs3) ∧
    ((s.reg rs3).toNat ≠ 0 → ∃ t, exec (.uModSub rd rs1 rs2 rs3) s = .next t ∧
        ((t.reg rd).toNat : Int) = (((s.reg rs1).toNat : Int) - (s.reg rs2).toNat) %
        ((s.reg rs3).toNat : Int) ∧ (t.reg rd).toNat < (s.reg rs3).toNat ∧ SameOutside [rd] s t) ∧
    ((s.reg rs3).toNat = 0 → ∃ t, exec (.uModSub rd rs1 rs2 rs3) s = .next t
        ∧ Latches .divideByZero (encode (.uModSub rd rs1 rs2 rs3)) s t) ∧
    HasWord (.uModMul rd rs1 rs2 rs3) (wordR3 0x92 rd rs1 rs2 rs3) ∧
    ((s.reg rs3).toNat ≠ 0 → ∃ t, exec (.uModMul rd rs1 rs2 rs3) s = .next t ∧ (t.reg rd).toNat =
        (s.reg rs1).toNat * (s.reg rs2).toNat % (s.reg rs3).toNat ∧ (t.reg rd).toNat <
        (s.reg rs3).toNat ∧ SameOutside [rd] s t) ∧
    ((s.reg rs3).toNat = 0 → ∃ t, exec (.uModMul rd rs1 rs2 rs3) s = .next t
        ∧ Latches .divideByZero (encode (.uModMul rd rs1 rs2 rs3)) s t)

/-- U.MODPOW writes u(a)^u(b) mod u(m) for any 128-bit exponent, and DivideByZero for a zero modulus.
For a non-zero modulus U.MODPOW writes u(a)^u(b) mod u(m), with x^0 = 1 (so 1 mod m for exponent
0), the exponent being all 128 bits unsigned, and only rd changes; a zero modulus latches
DivideByZero with its own word and writes no register. It has the R3 word of opcode 0x93. Basis:
R263. -/
def Obligations.ModularPower : Prop :=
  ∀ (s : State) (rd rs1 rs2 rs3 : Reg),
    HasWord (.uModPow rd rs1 rs2 rs3) (wordR3 0x93 rd rs1 rs2 rs3) ∧
    ((s.reg rs3).toNat ≠ 0 → ∃ t, exec (.uModPow rd rs1 rs2 rs3) s = .next t ∧ (t.reg rd).toNat =
        (s.reg rs1).toNat ^ (s.reg rs2).toNat % (s.reg rs3).toNat ∧ (t.reg rd).toNat <
        (s.reg rs3).toNat ∧ SameOutside [rd] s t) ∧
    ((s.reg rs3).toNat = 0 → ∃ t, exec (.uModPow rd rs1 rs2 rs3) s = .next t
        ∧ Latches .divideByZero (encode (.uModPow rd rs1 rs2 rs3)) s t)

/-- The modular unit adds, subtracts and multiplies correctly modulo any non-zero modulus. With
operand pre-reduction, one conditional correction, and the 64-bit or 256-bit product path by the
size of the modulus, the unit gives the residues of a + b, a - b and a * b for all operands and
every non-zero modulus. Basis: 46_modular.md R265-R268. -/
def Obligations.ModularUnitAgrees : Prop :=
  ∀ a b m : Word, m.toNat ≠ 0 →
    (modAddUnit a b m).toNat = (a.toNat + b.toNat) % m.toNat ∧
    ((modSubUnit a b m).toNat : Int) = ((a.toNat : Int) - b.toNat) % (m.toNat : Int) ∧
    (modMulUnit a b m).toNat = a.toNat * b.toNat % m.toNat

/-- The unit's power is a^e mod m whether or not the Montgomery path may be used. For both values of
the switch useMontgomery, every base, every 128-bit exponent and every non-zero modulus, the
unit's square-and-multiply loop (in Montgomery form for an odd modulus when the switch is on; the
conversions into and out of that form are the model's, log 16) gives u(a)^u(e) mod u(m). Basis:
46_modular.md R269, 46_modular.md R279, notes/assumptions/15.md, notes/assumptions/16.md. -/
def Obligations.ModularPowerUnitAgreesWithAndWithoutMontgomery : Prop :=
  ∀ (useM : Bool) (a e m : Word), m.toNat ≠ 0 →
    (modPowUnit useM a e m).toNat = a.toNat ^ e.toNat % m.toNat

/-- REDC of a number below N * 2^128 is below N and is that number times 2^-128 modulo the odd N. For
every odd N below 2^128 and every T below N * 2^128, REDC(T) < N and REDC(T) * 2^128 is congruent
to T modulo N; the constant used is the negated inverse of the low limb of N modulo 2^64 (how it
is found is the model's choice, log 16). Basis: 46_modular.md R279, notes/assumptions/16.md. -/
def Obligations.MontgomeryReductionIsCorrect : Prop :=
  (∀ n : Limb, n.toNat % 2 = 1 → (n.toNat * (montgomeryInverse n).toNat + 1) % 2 ^ 64 = 0) ∧
  ∀ n t : Nat, n % 2 = 1 → n < 2 ^ 128 → t < n * 2 ^ 128 →
    redc n t < n ∧ redc n t * 2 ^ 128 % n = t % n

/-- U.FSQRT, U.CSQRT, U.FCBRT, U.CCBRT write the floor and ceiling square and cube roots. U.FSQRT
writes the r with r^2 <= u(a) < (r+1)^2 and U.FCBRT the r with r^3 <= u(a) < (r+1)^3; U.CSQRT and
U.CCBRT write 0 for 0 and otherwise the r with (r-1)^2 < u(a) <= r^2, (r-1)^3 < u(a) <= r^3;
powers over the unbounded integers. Each has the R1 word of its opcode, raises no fault and
changes only rd. Basis: R330, R331, R332, R333. -/
def Obligations.UnsignedRoots : Prop :=
  ∀ (s : State) (rd rs1 : Reg),
    HasWord (.uFsqrt rd rs1) (wordR1 0xA0 rd rs1) ∧
    (∃ t, exec (.uFsqrt rd rs1) s = .next t ∧ (t.reg rd).toNat ^ 2 ≤ (s.reg rs1).toNat ∧
        (s.reg rs1).toNat < ((t.reg rd).toNat + 1) ^ 2 ∧ SameOutside [rd] s t) ∧
    HasWord (.uCsqrt rd rs1) (wordR1 0xA1 rd rs1) ∧
    (∃ t, exec (.uCsqrt rd rs1) s = .next t ∧ ((s.reg rs1).toNat = 0 → (t.reg rd).toNat = 0) ∧
        (0 < (s.reg rs1).toNat → ∃ k, (t.reg rd).toNat = k + 1 ∧ k ^ 2 < (s.reg rs1).toNat ∧
        (s.reg rs1).toNat ≤ (k + 1) ^ 2) ∧ SameOutside [rd] s t) ∧
    HasWord (.uFcbrt rd rs1) (wordR1 0xA2 rd rs1) ∧
    (∃ t, exec (.uFcbrt rd rs1) s = .next t ∧ (t.reg rd).toNat ^ 3 ≤ (s.reg rs1).toNat ∧
        (s.reg rs1).toNat < ((t.reg rd).toNat + 1) ^ 3 ∧ SameOutside [rd] s t) ∧
    HasWord (.uCcbrt rd rs1) (wordR1 0xA3 rd rs1) ∧
    (∃ t, exec (.uCcbrt rd rs1) s = .next t ∧ ((s.reg rs1).toNat = 0 → (t.reg rd).toNat = 0) ∧
        (0 < (s.reg rs1).toNat → ∃ k, (t.reg rd).toNat = k + 1 ∧ k ^ 3 < (s.reg rs1).toNat ∧
        (s.reg rs1).toNat ≤ (k + 1) ^ 3) ∧ SameOutside [rd] s t)

/-- S.FSQRT, S.CSQRT, S.FCBRT, S.CCBRT write the root of a non-negative operand, and DomainError
otherwise. For s(a) at least 0 each writes the floor or ceiling square or cube root of its
operand, as the unsigned command does, and only rd changes; for s(a) below 0 each latches
DomainError with its own word and writes no register. Each has the R1 word of its opcode. Basis:
R340, R341, R342, R343. -/
def Obligations.SignedRoots : Prop :=
  ∀ (s : State) (rd rs1 : Reg),
    HasWord (.sFsqrt rd rs1) (wordR1 0x78 rd rs1) ∧
    (0 ≤ (s.reg rs1).toInt → ∃ t, exec (.sFsqrt rd rs1) s = .next t ∧ (t.reg rd).toNat ^ 2 ≤
        (s.reg rs1).toNat ∧ (s.reg rs1).toNat < ((t.reg rd).toNat + 1) ^ 2 ∧ SameOutside [rd] s t) ∧
    ((s.reg rs1).toInt < 0 → ∃ t, exec (.sFsqrt rd rs1) s = .next t ∧ Latches .domainError (encode
        (.sFsqrt rd rs1)) s t) ∧
    HasWord (.sCsqrt rd rs1) (wordR1 0x79 rd rs1) ∧
    (0 ≤ (s.reg rs1).toInt → ∃ t, exec (.sCsqrt rd rs1) s = .next t ∧ ((s.reg rs1).toNat = 0 →
        (t.reg rd).toNat = 0) ∧ (0 < (s.reg rs1).toNat → ∃ k, (t.reg rd).toNat = k + 1 ∧ k ^ 2 <
        (s.reg rs1).toNat ∧ (s.reg rs1).toNat ≤ (k + 1) ^ 2) ∧ SameOutside [rd] s t) ∧
    ((s.reg rs1).toInt < 0 → ∃ t, exec (.sCsqrt rd rs1) s = .next t ∧ Latches .domainError (encode
        (.sCsqrt rd rs1)) s t) ∧
    HasWord (.sFcbrt rd rs1) (wordR1 0x7A rd rs1) ∧
    (0 ≤ (s.reg rs1).toInt → ∃ t, exec (.sFcbrt rd rs1) s = .next t ∧ (t.reg rd).toNat ^ 3 ≤
        (s.reg rs1).toNat ∧ (s.reg rs1).toNat < ((t.reg rd).toNat + 1) ^ 3 ∧ SameOutside [rd] s t) ∧
    ((s.reg rs1).toInt < 0 → ∃ t, exec (.sFcbrt rd rs1) s = .next t ∧ Latches .domainError (encode
        (.sFcbrt rd rs1)) s t) ∧
    HasWord (.sCcbrt rd rs1) (wordR1 0x7B rd rs1) ∧
    (0 ≤ (s.reg rs1).toInt → ∃ t, exec (.sCcbrt rd rs1) s = .next t ∧ ((s.reg rs1).toNat = 0 →
        (t.reg rd).toNat = 0) ∧ (0 < (s.reg rs1).toNat → ∃ k, (t.reg rd).toNat = k + 1 ∧ k ^ 3 <
        (s.reg rs1).toNat ∧ (s.reg rs1).toNat ≤ (k + 1) ^ 3) ∧ SameOutside [rd] s t) ∧
    ((s.reg rs1).toInt < 0 → ∃ t, exec (.sCcbrt rd rs1) s = .next t ∧ Latches .domainError (encode
        (.sCcbrt rd rs1)) s t)

/-- The square-root unit gives the floor and ceiling root from any seed the paths allow. From a seed
within one of the root, the one-unit correction gives the floor square root; from any positive
seed at least the root, the Newton iteration ends at the floor square root; and one exact square
turns the floor root into the ceiling root. The seed is an argument and the iteration has a fuel,
both the model's choice (log 18). Basis: 48_roots.md R335, 48_roots.md R336, 48_roots.md R337,
notes/assumptions/18.md. -/
def Obligations.SquareRootUnitAgrees : Prop :=
  ∀ a seed : Nat,
    (seed ≤ Nat.sqrt a + 1 → Nat.sqrt a ≤ seed + 1 → sqrtCorrect a seed = Nat.sqrt a) ∧
    (0 < seed → Nat.sqrt a ≤ seed → newtonSqrtUnit a seed = Nat.sqrt a) ∧
    (a = 0 → ceilFromFloorSqrt a (Nat.sqrt a) = 0) ∧
    (0 < a → ∃ k, ceilFromFloorSqrt a (Nat.sqrt a) = k + 1 ∧ k ^ 2 < a ∧ a ≤ (k + 1) ^ 2)

/-- The cube-root unit gives the floor and ceiling cube root of any 128-bit number from any seed.
Whatever the seed, the downward and upward loops end at the r with r^3 <= a < (r+1)^3 for every a
below 2^128, and the ceiling result is 0 for 0 and otherwise the r with (r-1)^3 < a <= r^3. The
seed is an argument and the upward loop has a fuel, both the model's choice (log 18). Basis:
48_roots.md R338, notes/assumptions/18.md. -/
def Obligations.CubeRootUnitAgrees : Prop :=
  ∀ a seed : Nat, a < 2 ^ 128 →
    (cbrtUnit a seed) ^ 3 ≤ a ∧ a < (cbrtUnit a seed + 1) ^ 3 ∧
    (a = 0 → ceilFromFloorCbrt a (cbrtUnit a seed) = 0) ∧
    (0 < a → ∃ k, ceilFromFloorCbrt a (cbrtUnit a seed) = k + 1 ∧ k ^ 3 < a ∧ a ≤ (k + 1) ^ 3)

end Statements
end

