-- ==== Sys2Proof/Laws/Encoding.lean ====
section
/-! SUPPORT. What the fields of a packed command word are, and what a word with the unused bits of a
format clear is packed from. A proof about `decode` or `encode` cites these instead of the bit
positions. -/

namespace Sys2Proof

section Fields
variable (imm8 : BitVec 8) (rs3 rs2 rs1 rd : Reg) (op : BitVec 8)

@[simp] theorem opcodeField_packFields : opcodeField (packFields imm8 rs3 rs2 rs1 rd op) = op := by
  apply BitVec.eq_of_getLsbD_eq; intro i hi
  simp [opcodeField, packFields]; grind

@[simp] theorem rdField_packFields : rdField (packFields imm8 rs3 rs2 rs1 rd op) = rd := by
  apply BitVec.eq_of_getLsbD_eq; intro i hi
  simp [rdField, packFields]; grind

@[simp] theorem rs1Field_packFields : rs1Field (packFields imm8 rs3 rs2 rs1 rd op) = rs1 := by
  apply BitVec.eq_of_getLsbD_eq; intro i hi
  simp [rs1Field, packFields]; grind

@[simp] theorem rs2Field_packFields : rs2Field (packFields imm8 rs3 rs2 rs1 rd op) = rs2 := by
  apply BitVec.eq_of_getLsbD_eq; intro i hi
  simp [rs2Field, packFields]; grind

@[simp] theorem rs3Field_packFields : rs3Field (packFields imm8 rs3 rs2 rs1 rd op) = rs3 := by
  apply BitVec.eq_of_getLsbD_eq; intro i hi
  simp [rs3Field, packFields]; grind

@[simp] theorem imm8Field_packFields : imm8Field (packFields imm8 rs3 rs2 rs1 rd op) = imm8 := by
  apply BitVec.eq_of_getLsbD_eq; intro i hi
  simp [imm8Field, packFields]; grind

end Fields

@[simp] theorem shamtField_packFields (d : BitVec 7) (rs3 rs2 rs1 rd : Reg) (op : BitVec 8) :
    shamtField (packFields (d.zeroExtend 8) rs3 rs2 rs1 rd op) = d := by
  apply BitVec.eq_of_getLsbD_eq; intro i hi
  simp [shamtField, packFields]; grind

/-- A word is packed from its own fields. -/
theorem packFields_fields (c : Cmd) :
    packFields (imm8Field c) (rs3Field c) (rs2Field c) (rs1Field c) (rdField c) (opcodeField c) = c := by
  apply BitVec.eq_of_getLsbD_eq; intro i hi
  simp [packFields, opcodeField, rdField, rs1Field, rs2Field, rs3Field, imm8Field, hi]
  grind

/-- A packed word as a number (30_encoding.md R61). -/
theorem packFields_toNat (imm8 : BitVec 8) (rs3 rs2 rs1 rd : Reg) (op : BitVec 8) :
    (packFields imm8 rs3 rs2 rs1 rd op).toNat = op.toNat + 2 ^ 8 * rd.toNat + 2 ^ 12 * rs1.toNat
      + 2 ^ 16 * rs2.toNat + 2 ^ 20 * rs3.toNat + 2 ^ 24 * imm8.toNat := by
  have h := opcodeField_packFields imm8 rs3 rs2 rs1 rd op
  have h1 := rdField_packFields imm8 rs3 rs2 rs1 rd op
  have h2 := rs1Field_packFields imm8 rs3 rs2 rs1 rd op
  have h3 := rs2Field_packFields imm8 rs3 rs2 rs1 rd op
  have h4 := rs3Field_packFields imm8 rs3 rs2 rs1 rd op
  have h5 := imm8Field_packFields imm8 rs3 rs2 rs1 rd op
  generalize packFields imm8 rs3 rs2 rs1 rd op = c at *
  have := c.isLt
  subst h h1 h2 h3 h4 h5
  simp only [opcodeField, rdField, rs1Field, rs2Field, rs3Field, imm8Field, BitVec.extractLsb'_toNat,
    Nat.shiftRight_eq_div_pow]
  omega

/-! The unused bits of each format, in terms of the fields. -/

theorem unusedN_iff (c : Cmd) : c.extractLsb' 8 24 = 0#24 ↔
    rdField c = 0#4 ∧ rs1Field c = 0#4 ∧ rs2Field c = 0#4 ∧ rs3Field c = 0#4 ∧ imm8Field c = 0#8 := by
  simp only [rdField, rs1Field, rs2Field, rs3Field, imm8Field, BitVec.toNat_eq,
    BitVec.extractLsb'_toNat, Nat.shiftRight_eq_div_pow]
  have := c.isLt
  simp; omega

theorem unusedK_iff (c : Cmd) : c.extractLsb' 12 12 = 0#12 ↔
    rs1Field c = 0#4 ∧ rs2Field c = 0#4 ∧ rs3Field c = 0#4 := by
  simp only [rs1Field, rs2Field, rs3Field, BitVec.toNat_eq,
    BitVec.extractLsb'_toNat, Nat.shiftRight_eq_div_pow]
  have := c.isLt
  simp; omega

theorem unusedR1_iff (c : Cmd) : c.extractLsb' 16 16 = 0#16 ↔
    rs2Field c = 0#4 ∧ rs3Field c = 0#4 ∧ imm8Field c = 0#8 := by
  simp only [rs2Field, rs3Field, imm8Field, BitVec.toNat_eq,
    BitVec.extractLsb'_toNat, Nat.shiftRight_eq_div_pow]
  have := c.isLt
  simp; omega

theorem unusedR2_iff (c : Cmd) : c.extractLsb' 20 12 = 0#12 ↔ rs3Field c = 0#4 ∧ imm8Field c = 0#8 := by
  simp only [rs3Field, imm8Field, BitVec.toNat_eq, BitVec.extractLsb'_toNat,
    Nat.shiftRight_eq_div_pow]
  have := c.isLt
  simp; omega

theorem unusedRI_iff (c : Cmd) : (c.extractLsb' 16 8 = 0#8 ∧ c.extractLsb' 31 1 = 0#1) ↔
    rs2Field c = 0#4 ∧ rs3Field c = 0#4 ∧ imm8Field c = (shamtField c).zeroExtend 8 := by
  simp only [rs2Field, rs3Field, imm8Field, shamtField, BitVec.toNat_eq, BitVec.extractLsb'_toNat,
    BitVec.truncate_eq_setWidth, BitVec.toNat_setWidth, Nat.shiftRight_eq_div_pow]
  have := c.isLt
  simp; omega

/-! The round trip of each format: the word a format packs, and what its decoder makes of it. -/

theorem decodeN_encodeN (op : BitVec 8) (mk : Instr) : decodeN (encodeN op) mk = .ok mk := by
  simp [decodeN, encodeN, whenUnusedZero, unusedN_iff]

theorem decodeK_encodeK (op : BitVec 8) (rd : Reg) (k : BitVec 8) (mk : Reg → BitVec 8 → Instr)
    (h : k.toNat ≤ 4) : decodeK (encodeK op rd k) mk = .ok (mk rd k) := by
  simp [decodeK, encodeK, whenUnusedZero, unusedK_iff, h]

theorem decodeR1_encodeR1 (op : BitVec 8) (rd rs1 : Reg) (mk : Reg → Reg → Instr) :
    decodeR1 (encodeR1 op rd rs1) mk = .ok (mk rd rs1) := by
  simp [decodeR1, encodeR1, whenUnusedZero, unusedR1_iff]

theorem decodeR2_encodeR2 (op : BitVec 8) (rd rs1 rs2 : Reg) (mk : Reg → Reg → Reg → Instr) :
    decodeR2 (encodeR2 op rd rs1 rs2) mk = .ok (mk rd rs1 rs2) := by
  simp [decodeR2, encodeR2, whenUnusedZero, unusedR2_iff]

theorem decodeR3_encodeR3 (op : BitVec 8) (rd rs1 rs2 rs3 : Reg)
    (mk : Reg → Reg → Reg → Reg → Instr) :
    decodeR3 (encodeR3 op rd rs1 rs2 rs3) mk = .ok (mk rd rs1 rs2 rs3) := by
  simp [decodeR3, encodeR3, whenUnusedZero]

theorem decodeRI_encodeRI (op : BitVec 8) (rd rs1 : Reg) (d : BitVec 7)
    (mk : Reg → Reg → BitVec 7 → Instr) :
    decodeRI (encodeRI op rd rs1 d) mk = .ok (mk rd rs1 d) := by
  have h := (unusedRI_iff (encodeRI op rd rs1 d)).2 (by
    simp [encodeRI, -BitVec.truncate_eq_setWidth])
  have hs : shamtField (encodeRI op rd rs1 d) = d := by
    simp [encodeRI, -BitVec.truncate_eq_setWidth]
  have hr : rdField (encodeRI op rd rs1 d) = rd ∧ rs1Field (encodeRI op rd rs1 d) = rs1 := by
    simp [encodeRI, -BitVec.truncate_eq_setWidth]
  simp [decodeRI, whenUnusedZero, h.1, h.2, hs, hr.1, hr.2]

theorem decodeR2D_encodeR2D (op : BitVec 8) (rd rd2 rs1 rs2 : Reg)
    (mk : Reg → Reg → Reg → Reg → Instr) (h : rd ≠ rd2) :
    decodeR2D (encodeR2D op rd rd2 rs1 rs2) mk = .ok (mk rd rd2 rs1 rs2) := by
  simp [decodeR2D, encodeR2D, whenUnusedZero, h]

/-! A word that a format's decoder accepts, and what it is packed from. -/

theorem whenUnusedZero_ok (c : Cmd) (b : Bool) (i j : Instr) :
    whenUnusedZero c b i = .ok j ↔ b = true ∧ i = j := by
  cases b <;> simp [whenUnusedZero]

end Sys2Proof
end

