-- ==== Sys2Proof/Laws/State.lean ====
section
/-! SUPPORT. What each update of the state leaves in each field. A proof about a step cites these and
unfolds no record update. -/

namespace Sys2Proof.Machine

/-! The fields after a register write. -/

@[simp] theorem State.setReg_fcode (s : State) (r : Reg) (v : Word) : (s.setReg r v).fcode = s.fcode := rfl
@[simp] theorem State.setReg_fcmd (s : State) (r : Reg) (v : Word) : (s.setReg r v).fcmd = s.fcmd := rfl
@[simp] theorem State.setReg_pending (s : State) (r : Reg) (v : Word) :
    (s.setReg r v).pending = s.pending := rfl
@[simp] theorem State.setReg_returned (s : State) (r : Reg) (v : Word) :
    (s.setReg r v).returned = s.returned := rfl
@[simp] theorem State.setReg_resets (s : State) (r : Reg) (v : Word) :
    (s.setReg r v).resets = s.resets := rfl

/-- The register written holds the value. -/
@[simp] theorem State.reg_setReg_same (s : State) (r : Reg) (v : Word) : (s.setReg r v).reg r = v := by
  simp [State.reg, State.setReg]

/-- Every other register is as before. -/
theorem State.reg_setReg_other (s : State) (r r' : Reg) (v : Word) (h : r' ≠ r) :
    (s.setReg r v).reg r' = s.reg r' := by
  have : r.toNat ≠ r'.toNat := fun e => h (BitVec.eq_of_toNat_eq e.symm)
  simp [State.reg, State.setReg, Vector.getElem_set_ne, this]

/-! The fields after fault entry and after return from a fault. -/

@[simp] theorem State.raise_reg (s : State) (k : FaultKind) (c : Cmd) (r : Reg) :
    (s.raise k c).reg r = s.reg r := rfl
@[simp] theorem State.raise_fcode (s : State) (k : FaultKind) (c : Cmd) : (s.raise k c).fcode = k.code := rfl
@[simp] theorem State.raise_fcmd (s : State) (k : FaultKind) (c : Cmd) : (s.raise k c).fcmd = c := rfl
@[simp] theorem State.raise_pending (s : State) (k : FaultKind) (c : Cmd) :
    (s.raise k c).pending = s.pending := rfl
@[simp] theorem State.raise_returned (s : State) (k : FaultKind) (c : Cmd) :
    (s.raise k c).returned = s.returned := rfl
@[simp] theorem State.raise_resets (s : State) (k : FaultKind) (c : Cmd) :
    (s.raise k c).resets = s.resets := rfl

@[simp] theorem State.clearFault_reg (s : State) (r : Reg) : s.clearFault.reg r = s.reg r := rfl
@[simp] theorem State.clearFault_fcode (s : State) : s.clearFault.fcode = 0 := rfl
@[simp] theorem State.clearFault_fcmd (s : State) : s.clearFault.fcmd = 0 := rfl
@[simp] theorem State.clearFault_pending (s : State) : s.clearFault.pending = s.pending := rfl
@[simp] theorem State.clearFault_returned (s : State) : s.clearFault.returned = s.returned := rfl
@[simp] theorem State.clearFault_resets (s : State) : s.clearFault.resets = s.resets := rfl

/-! The fields after a port read. -/

@[simp] theorem State.portRead_reg (s : State) (a : PortAddr) (r : Reg) :
    (s.portRead a).reg r = s.reg r := rfl
@[simp] theorem State.portRead_fcode (s : State) (a : PortAddr) : (s.portRead a).fcode = s.fcode := rfl
@[simp] theorem State.portRead_fcmd (s : State) (a : PortAddr) : (s.portRead a).fcmd = s.fcmd := rfl
@[simp] theorem State.portRead_pending (s : State) (a : PortAddr) :
    (s.portRead a).pending = s.pending := rfl
@[simp] theorem State.portRead_returned (s : State) (a : PortAddr) :
    (s.portRead a).returned = s.returned ++ [s.portData a] := rfl
@[simp] theorem State.portRead_resets (s : State) (a : PortAddr) : (s.portRead a).resets = s.resets := rfl

/-! The fields after a reset. -/

@[simp] theorem State.portReset_fcode (s : State) : s.portReset.fcode = 0 := rfl
@[simp] theorem State.portReset_fcmd (s : State) : s.portReset.fcmd = 0 := rfl
@[simp] theorem State.portReset_pending (s : State) : s.portReset.pending = s.pending := rfl
@[simp] theorem State.portReset_returned (s : State) : s.portReset.returned = s.returned := rfl
@[simp] theorem State.portReset_resets (s : State) : s.portReset.resets = s.resets + 1 := rfl

/-- A register of the file that a reset leaves is its draw. -/
@[simp] theorem State.portReset_reg (s : State) (r : Reg) :
    s.portReset.reg r = Config.resetQ s.resets r := by
  simp [State.reg, State.portReset, resetRegisters]

/-- A register right after reset is its draw. -/
@[simp] theorem State.reset_reg (r : Reg) : State.reset.reg r = Config.resetQ 0 r := by
  simp [State.reg, State.reset, resetRegisters]

/-! The fields when the oldest transaction is taken off, and when one is put first. -/

@[simp] theorem State.rest_reg (s : State) (p : List Transaction) (r : Reg) :
    ({ s with pending := p } : State).reg r = s.reg r := rfl
@[simp] theorem State.rest_latched (s : State) (p : List Transaction) :
    ({ s with pending := p } : State).latched = s.latched := rfl
@[simp] theorem State.rest_status (s : State) (p : List Transaction) :
    ({ s with pending := p } : State).status = s.status := rfl
@[simp] theorem State.rest_portData (s : State) (p : List Transaction) (a : PortAddr) :
    ({ s with pending := p } : State).portData a = s.portData a := rfl

@[simp] theorem State.offer_reg (s : State) (t : Transaction) (r : Reg) : (s.offer t).reg r = s.reg r := rfl
@[simp] theorem State.offer_fcode (s : State) (t : Transaction) : (s.offer t).fcode = s.fcode := rfl
@[simp] theorem State.offer_fcmd (s : State) (t : Transaction) : (s.offer t).fcmd = s.fcmd := rfl
@[simp] theorem State.offer_pending (s : State) (t : Transaction) :
    (s.offer t).pending = t :: s.pending := rfl
@[simp] theorem State.offer_returned (s : State) (t : Transaction) : (s.offer t).returned = s.returned := rfl
@[simp] theorem State.offer_resets (s : State) (t : Transaction) : (s.offer t).resets = s.resets := rfl

/-- No fault is latched exactly when the code is 0. -/
theorem State.latched_eq_false (s : State) : s.latched = false ↔ s.fcode = 0 := by
  simp [State.latched]

/-- Two states that agree on every register and on every other field are one state. -/
theorem State.ext_reg {s t : State} (h : ∀ r, t.reg r = s.reg r) (h1 : t.fcode = s.fcode)
    (h2 : t.fcmd = s.fcmd) (h3 : t.pending = s.pending) (h4 : t.returned = s.returned)
    (h5 : t.resets = s.resets) : t = s := by
  cases s; cases t
  simp only [State.mk.injEq]
  refine ⟨?_, h1, h2, h3, h4, h5⟩
  apply Vector.ext
  intro i hi
  have := h (BitVec.ofNat 4 i)
  simpa [State.reg, Nat.mod_eq_of_lt hi] using this

end Sys2Proof.Machine
end

