-- ==== Sys2Proof/Laws/Words.lean ====
section
/-! SUPPORT. The readings of a pattern as numbers, and the limbs of a pattern, once and for all: a
proof about a result turns it into a statement about `Nat` or `Int` with these. -/

namespace Sys2Proof.Machine

theorem uVal_lt (v : Word) : uVal v < 2 ^ 128 := v.isLt

theorem uVal_inj {v w : Word} (h : uVal v = uVal w) : v = w := BitVec.eq_of_toNat_eq h

/-- The pattern of an integer, read unsigned. -/
theorem uVal_pat (n : Int) : (uVal (pat n) : Int) = n % 2 ^ 128 := by
  simp only [uVal, pat, BitVec.toNat_ofInt]
  rw [Int.toNat_of_nonneg (Int.emod_nonneg _ (by decide))]
  norm_num

/-- The pattern of a natural number, read unsigned. -/
theorem uVal_pat_nat (n : Nat) : uVal (pat (n : Int)) = n % 2 ^ 128 := by
  have := uVal_pat n
  exact_mod_cast this

/-- A number that fits is read back. -/
theorem uVal_pat_of_lt {n : Nat} (h : n < 2 ^ 128) : uVal (pat (n : Int)) = n := by
  rw [uVal_pat_nat, Nat.mod_eq_of_lt h]

theorem isNeg_iff (v : Word) : isNeg v = true ↔ 2 ^ 127 ≤ uVal v := by
  simp only [isNeg, uVal, BitVec.getLsbD, Nat.testBit_eq_decide_div_mod_eq, decide_eq_true_eq]
  have := v.isLt
  omega

/-- The signed reading is the two's-complement one. -/
theorem sVal_eq_toInt (v : Word) : sVal v = v.toInt := by
  rw [BitVec.toInt_eq_toNat_cond]
  by_cases h : isNeg v = true
  · have := (isNeg_iff v).1 h
    simp only [sVal, h, uVal] at this ⊢
    simp; omega
  · have h' := mt (isNeg_iff v).2 h
    simp only [sVal, h, uVal] at h' ⊢
    simp; omega

theorem sVal_lower (v : Word) : -(2 ^ 127) ≤ sVal v := by
  rw [sVal_eq_toInt]; simpa using BitVec.le_toInt v

theorem sVal_upper (v : Word) : sVal v < 2 ^ 127 := by
  rw [sVal_eq_toInt]; simpa using BitVec.toInt_lt (x := v)

theorem isNeg_iff_sVal (v : Word) : isNeg v = true ↔ sVal v < 0 := by
  rw [isNeg_iff]
  have := uVal_lt v
  unfold sVal
  split
  · rename_i h; rw [isNeg_iff] at h; omega
  · rename_i h; rw [isNeg_iff] at h; omega

/-- Both readings agree modulo `2^128`. -/
theorem sVal_emod (v : Word) : sVal v % 2 ^ 128 = uVal v := by
  have := uVal_lt v
  unfold sVal
  split <;> omega

/-- The pattern of the signed reading is the pattern. -/
theorem pat_sVal (v : Word) : pat (sVal v) = v := by
  apply uVal_inj
  have h := uVal_pat (sVal v)
  rw [sVal_emod] at h
  exact_mod_cast h

theorem pat_uVal (v : Word) : pat (uVal v) = v := by
  apply uVal_inj
  rw [uVal_pat_of_lt (uVal_lt v)]

/-- Integers that agree modulo `2^128` have one pattern. -/
theorem pat_congr {m n : Int} (h : m % 2 ^ 128 = n % 2 ^ 128) : pat m = pat n := by
  apply uVal_inj
  have h1 := uVal_pat m
  have h2 := uVal_pat n
  omega

/-- Negation of a pattern, read unsigned. -/
theorem uVal_neg (v : Word) : uVal (neg v) = (2 ^ 128 - uVal v) % 2 ^ 128 := by
  have h := uVal_pat ((2 ^ 128 : Nat) - uVal v)
  have := uVal_lt v
  unfold neg
  omega

/-- The magnitude of a pattern is the absolute value of its signed reading. -/
theorem uVal_mag (v : Word) : uVal (mag v) = (sVal v).natAbs := by
  have h := uVal_neg v
  have := uVal_lt v
  unfold mag sVal
  split
  · rename_i h'; rw [isNeg_iff] at h'; omega
  · omega

/-! Limbs. -/

theorem lo_toNat (v : Word) : (lo v).toNat = uVal v % 2 ^ 64 := by
  simp [lo, uVal, BitVec.extractLsb'_toNat]

theorem hi_toNat (v : Word) : (hi v).toNat = uVal v / 2 ^ 64 := by
  have := v.isLt
  simp only [hi, uVal, BitVec.extractLsb'_toNat, Nat.shiftRight_eq_div_pow]
  omega

theorem uVal_ofLimbs (h l : Limb) : uVal (ofLimbs h l) = h.toNat * 2 ^ 64 + l.toNat := by
  have := l.isLt
  simp only [uVal, ofLimbs, BitVec.toNat_append, Nat.shiftLeft_eq]
  rw [Nat.mul_comm h.toNat, ← Nat.two_pow_add_eq_or_of_lt this]

/-- A value is its limbs. -/
theorem uVal_limbs (v : Word) : uVal v = (hi v).toNat * 2 ^ 64 + (lo v).toNat := by
  rw [hi_toNat, lo_toNat]; omega

@[simp] theorem lo_ofLimbs (h l : Limb) : lo (ofLimbs h l) = l := by
  apply BitVec.eq_of_toNat_eq
  rw [lo_toNat, uVal_ofLimbs]; have := l.isLt; omega

@[simp] theorem hi_ofLimbs (h l : Limb) : hi (ofLimbs h l) = h := by
  apply BitVec.eq_of_toNat_eq
  rw [hi_toNat, uVal_ofLimbs]; have := l.isLt; omega

@[simp] theorem ofLimbs_hi_lo (v : Word) : ofLimbs (hi v) (lo v) = v := by
  apply uVal_inj
  rw [uVal_ofLimbs, ← uVal_limbs]

/-- Two patterns with the same limbs are one pattern. -/
theorem limbs_ext {v w : Word} (h : hi v = hi w) (l : lo v = lo w) : v = w := by
  rw [← ofLimbs_hi_lo v, ← ofLimbs_hi_lo w, h, l]

/-- A limb read as a signed number is the two's-complement reading. -/
theorem s64_eq_toInt (l : Limb) : s64 l = l.toInt := by
  rw [BitVec.toInt_eq_toNat_cond]
  have := l.isLt
  simp only [s64, BitVec.getLsbD, Nat.testBit_eq_decide_div_mod_eq]
  split <;> split <;> simp_all <;> omega

/-! The constants. -/

@[simp] theorem uVal_zeroWord : uVal zeroWord = 0 := by decide
@[simp] theorem uVal_oneWord : uVal oneWord = 1 := by decide
@[simp] theorem uVal_maxWord : uVal maxWord = 2 ^ 128 - 1 := by decide
@[simp] theorem uVal_sMinWord : uVal sMinWord = 2 ^ 127 := by decide
@[simp] theorem uVal_sMaxWord : uVal sMaxWord = 2 ^ 127 - 1 := by decide

/-- `bitlen` is the size of a natural number in bits. -/
theorem bitlen_le_iff (n k : Nat) : bitlen n ≤ k ↔ n < 2 ^ k := by
  unfold bitlen
  split
  · rename_i h; simp [h]
  · rename_i h; rw [Nat.add_one_le_iff, Nat.log2_lt h]

end Sys2Proof.Machine
end

