-- ==== Sys2Proof/Laws/Ops.lean ====
section
/-! SUPPORT. What each shared operation can do, said once: the command shapes, fault entry, the port
transactions, and a step by the kind of the oldest transaction. A proof about `exec` or `step` cites
these and does not unfold the operations. -/

namespace Sys2Proof.Machine

/-! ## Frames -/

/-- Nothing changed: every frame holds. -/
theorem SameOutside.refl (rs : List Reg) (s : State) : SameOutside rs s s :=
  ⟨fun _ _ => rfl, rfl, rfl, rfl, rfl, rfl⟩

/-- A register write changes that register only. -/
theorem State.setReg_sameOutside (s : State) (r : Reg) (v : Word) : SameOutside [r] s (s.setReg r v) :=
  ⟨fun r' h => s.reg_setReg_other r r' v (by simpa using h), rfl, rfl, rfl, rfl, rfl⟩

/-- Fault entry is latching the fault, with the code of its kind. -/
theorem State.raise_latches (s : State) (k : FaultKind) (c : Cmd) : Latches k c s (s.raise k c) :=
  ⟨rfl, rfl, fun _ => rfl, rfl, rfl, rfl⟩

/-! ## Command shapes -/

theorem unaryOp_spec (f : Word → Word) (rd rs1 : Reg) (s : State) :
    (unaryOp f rd rs1 s).reg rd = f (s.reg rs1) ∧ SameOutside [rd] s (unaryOp f rd rs1 s) :=
  ⟨s.reg_setReg_same .., s.setReg_sameOutside ..⟩

theorem binaryOp_spec (f : Word → Word → Word) (rd rs1 rs2 : Reg) (s : State) :
    (binaryOp f rd rs1 rs2 s).reg rd = f (s.reg rs1) (s.reg rs2)
      ∧ SameOutside [rd] s (binaryOp f rd rs1 rs2 s) :=
  ⟨s.reg_setReg_same .., s.setReg_sameOutside ..⟩

theorem ternaryOp_spec (f : Word → Word → Word → Word) (rd rs1 rs2 rs3 : Reg) (s : State) :
    (ternaryOp f rd rs1 rs2 rs3 s).reg rd = f (s.reg rs1) (s.reg rs2) (s.reg rs3)
      ∧ SameOutside [rd] s (ternaryOp f rd rs1 rs2 rs3 s) :=
  ⟨s.reg_setReg_same .., s.setReg_sameOutside ..⟩

/-- Both results are of the values before either write, whichever registers coincide with sources. -/
theorem pairOp_spec (f g : Word → Word → Word) (rd rd2 rs1 rs2 : Reg) (s : State) (h : rd ≠ rd2) :
    (pairOp f g rd rd2 rs1 rs2 s).reg rd = f (s.reg rs1) (s.reg rs2)
      ∧ (pairOp f g rd rd2 rs1 rs2 s).reg rd2 = g (s.reg rs1) (s.reg rs2)
      ∧ SameOutside [rd, rd2] s (pairOp f g rd rd2 rs1 rs2 s) := by
  refine ⟨?_, State.reg_setReg_same .., fun r hr => ?_, rfl, rfl, rfl, rfl, rfl⟩
  · simp [pairOp, State.reg_setReg_other _ _ _ _ h]
  · simp only [List.mem_cons, List.not_mem_nil, or_false, not_or] at hr
    simp [pairOp, State.reg_setReg_other _ _ _ _ hr.1, State.reg_setReg_other _ _ _ _ hr.2]

/-- The divisor test is the divisor being the number 0. -/
theorem isZero_iff (b : Word) : isZero b = true ↔ b.toNat = 0 := by simp [isZero, uVal]

/-- The sign test is the signed reading being negative. -/
theorem isNeg_iff_toInt (v : Word) : isNeg v = true ↔ v.toInt < 0 := by
  rw [isNeg_iff_sVal, sVal_eq_toInt]

/-! ## Encodings as numbers -/

theorem encodeR1_toNat (op : BitVec 8) (rd rs1 : Reg) :
    (encodeR1 op rd rs1).toNat = wordR1 op.toNat rd rs1 := by
  simp [encodeR1, packFields_toNat, wordR1, wordOf]

theorem encodeR2_toNat (op : BitVec 8) (rd rs1 rs2 : Reg) :
    (encodeR2 op rd rs1 rs2).toNat = wordR2 op.toNat rd rs1 rs2 := by
  simp [encodeR2, packFields_toNat, wordR2, wordOf]

theorem encodeR3_toNat (op : BitVec 8) (rd rs1 rs2 rs3 : Reg) :
    (encodeR3 op rd rs1 rs2 rs3).toNat = wordR3 op.toNat rd rs1 rs2 rs3 := by
  simp [encodeR3, packFields_toNat, wordR3, wordOf]

theorem encodeR2D_toNat (op : BitVec 8) (rd rd2 rs1 rs2 : Reg) :
    (encodeR2D op rd rd2 rs1 rs2).toNat = wordR2D op.toNat rd rd2 rs1 rs2 := by
  simp [encodeR2D, packFields_toNat, wordR2D, wordOf]

theorem encodeK_toNat (op : BitVec 8) (rd : Reg) (k : BitVec 8) :
    (encodeK op rd k).toNat = wordOf op.toNat rd 0 0 0 k.toNat := by
  simp [encodeK, packFields_toNat, wordOf]

theorem encodeRI_toNat (op : BitVec 8) (rd rs1 : Reg) (d : BitVec 7) :
    (encodeRI op rd rs1 d).toNat = wordRI op.toNat rd rs1 d := by
  have : d.toNat % 2 ^ 8 = d.toNat := Nat.mod_eq_of_lt (by have := d.isLt; omega)
  simp only [encodeRI, packFields_toNat, wordRI, wordOf, BitVec.truncate_eq_setWidth,
    BitVec.toNat_setWidth, this]

/-- The data of a `CMD` write whose upper half is zero decodes as its low half does. -/
theorem decodeData_of_lt (d : Limb) (h : d.toNat < 2 ^ 32) : decodeData d = decode (d.extractLsb' 0 32) := by
  have : d.extractLsb' 32 32 = 0 := by
    apply BitVec.eq_of_toNat_eq
    simp only [BitVec.extractLsb'_toNat, Nat.shiftRight_eq_div_pow, Nat.div_eq_of_lt h]
    rfl
  simp [decodeData, this]

/-- The data of a `CMD` write whose upper half is not zero decodes to nothing. -/
theorem decodeData_of_ge (d : Limb) (h : 2 ^ 32 ≤ d.toNat) : ∃ e, decodeData d = .error e := by
  have : d.extractLsb' 32 32 ≠ 0 := by
    intro e
    have e' := congrArg BitVec.toNat e
    rw [BitVec.extractLsb'_toNat, Nat.shiftRight_eq_div_pow] at e'
    have := d.isLt
    have e0 : (0 : BitVec 32).toNat = 0 := rfl
    rw [e0] at e'
    omega
  exact ⟨.upperHalfSet (d.extractLsb' 32 32), by rw [decodeData, if_neg this]⟩

/-- The data that carries a word and nothing above it decodes as the word does. -/
theorem decodeData_zero_append (c : Cmd) : decodeData (0#32 ++ c) = decode c := by
  have h : (0#32 ++ c : Limb).toNat = c.toNat := by
    rw [BitVec.toNat_append]; simp
  rw [decodeData_of_lt _ (by rw [h]; exact c.isLt)]
  congr 1
  apply BitVec.eq_of_toNat_eq
  rw [BitVec.extractLsb'_toNat, h]
  have := c.isLt
  simp; omega

/-! ## A step, by the oldest transaction -/

section Step
variable {s : State} {rest : List Transaction}

theorem step_idle (h : s.pending = []) : step s = .next s := by
  simp [step, State.stepWith, h]

theorem step_limb_write {a : PortAddr} {d : Limb} (h : s.pending = .write a d :: rest)
    (ha : a.toNat ≤ 0x1F) : step s = .next (({ s with pending := rest } : State).writeLimb a d) := by
  simp [step, State.stepWith, h, State.perform, State.portWrite, ha]

theorem step_read {a : PortAddr} (h : s.pending = .read a :: rest) :
    step s = .next { s with pending := rest, returned := s.returned ++ [s.portData a] } := by
  simp [step, State.stepWith, h, State.perform, State.portRead]

theorem step_status_write {d : Limb} (h : s.pending = .write 0x21 d :: rest) :
    step s = .next { s with pending := rest, fcode := 0, fcmd := 0 } := by
  simp [step, State.stepWith, h, State.perform, State.portWrite, State.clearFault]

theorem step_reserved_write {a : PortAddr} {d : Limb} (h : s.pending = .write a d :: rest)
    (ha : 0x22 ≤ a.toNat) : step s = .next { s with pending := rest } := by
  have h1 : ¬ a.toNat ≤ 0x1F := by omega
  have h2 : a ≠ 0x20 := by rintro rfl; simp at ha
  have h3 : a ≠ 0x21 := by rintro rfl; simp at ha
  simp only [step, State.stepWith, h, State.perform, State.portWrite, if_neg h1, if_neg h2, if_neg h3]

theorem step_cmd_latched {d : Limb} (h : s.pending = .write 0x20 d :: rest) (hf : s.fcode ≠ 0) :
    step s = .next { s with pending := rest } := by
  have hl : (s.fcode != 0) = true := by simpa using hf
  simp only [step, State.stepWith, h, State.perform, State.portWrite, State.portCommand, State.latched, hl]
  rfl

theorem step_cmd_ok {d : Limb} {i : Instr} (h : s.pending = .write 0x20 d :: rest) (hf : s.fcode = 0)
    (hd : decodeData d = .ok i) : step s = exec i { s with pending := rest } := by
  simp [step, State.stepWith, h, State.perform, State.portWrite, State.portCommand, State.latched, hf, hd]

theorem step_cmd_error {d : Limb} {e : DecodeError} (h : s.pending = .write 0x20 d :: rest)
    (hf : s.fcode = 0) (hd : decodeData d = .error e) :
    step s = .next
      (({ s with pending := rest } : State).raise .illegalCommand (d.extractLsb' 0 32)) := by
  simp [step, State.stepWith, h, State.perform, State.portWrite, State.portCommand, State.latched, hf, hd]

theorem step_reset (h : s.pending = .reset :: rest) :
    step s = .next (({ s with pending := rest } : State).portReset) := by
  simp [step, State.stepWith, h, State.perform]

end Step

/-- Everything a step can do: nothing, with nothing outstanding; or the oldest transaction, by its
kind and, for a write, its address. -/
theorem step_cases (s : State) :
    (s.pending = [] ∧ step s = .next s) ∨
    (∃ rest, s.pending = .reset :: rest ∧
      step s = .next (({ s with pending := rest } : State).portReset)) ∨
    (∃ a rest, s.pending = .read a :: rest ∧
      step s = .next { s with pending := rest, returned := s.returned ++ [s.portData a] }) ∨
    (∃ a d rest, s.pending = .write a d :: rest ∧
      ((a.toNat ≤ 0x1F ∧ step s = .next (({ s with pending := rest } : State).writeLimb a d)) ∨
       (a = 0x20 ∧ s.fcode ≠ 0 ∧ step s = .next { s with pending := rest }) ∨
       (a = 0x20 ∧ s.fcode = 0 ∧ ∃ i, decodeData d = .ok i ∧ step s = exec i { s with pending := rest }) ∨
       (a = 0x20 ∧ s.fcode = 0 ∧ (∃ e, decodeData d = .error e) ∧ step s = .next
          (({ s with pending := rest } : State).raise .illegalCommand (d.extractLsb' 0 32))) ∨
       (a = 0x21 ∧ step s = .next { s with pending := rest, fcode := 0, fcmd := 0 }) ∨
       (0x22 ≤ a.toNat ∧ step s = .next { s with pending := rest }))) := by
  rcases h : s.pending with _ | ⟨_ | _ | _, rest⟩
  · exact .inl ⟨rfl, step_idle h⟩
  · rename_i a d
    refine .inr (.inr (.inr ⟨a, d, rest, rfl, ?_⟩))
    by_cases h1 : a.toNat ≤ 0x1F
    · exact .inl ⟨h1, step_limb_write h h1⟩
    by_cases h2 : a = 0x20
    · subst h2
      by_cases hf : s.fcode = 0
      · cases hd : decodeData d with
        | ok i => exact .inr (.inr (.inl ⟨rfl, hf, i, rfl, step_cmd_ok h hf hd⟩))
        | error e => exact .inr (.inr (.inr (.inl ⟨rfl, hf, ⟨e, rfl⟩, step_cmd_error h hf hd⟩)))
      · exact .inr (.inl ⟨rfl, hf, step_cmd_latched h hf⟩)
    by_cases h3 : a = 0x21
    · subst h3
      exact .inr (.inr (.inr (.inr (.inl ⟨rfl, step_status_write h⟩))))
    have h4 : 0x22 ≤ a.toNat := by
      have e2 : a.toNat ≠ 0x20 := fun e => h2 (BitVec.eq_of_toNat_eq e)
      have e3 : a.toNat ≠ 0x21 := fun e => h3 (BitVec.eq_of_toNat_eq e)
      omega
    exact .inr (.inr (.inr (.inr (.inr ⟨h4, step_reserved_write h h4⟩))))
  · rename_i a
    exact .inr (.inr (.inl ⟨a, rest, rfl, step_read h⟩))
  · exact .inr (.inl ⟨rest, rfl, step_reset h⟩)

/-! ## Limb transactions -/

/-- The register of a limb address, from the address as a number. -/
theorem limbReg_eq (a : PortAddr) : limbReg a = BitVec.ofNat 4 (a.toNat / 2) := by
  apply BitVec.eq_of_toNat_eq
  simp only [limbReg, BitVec.extractLsb'_toNat, Nat.shiftRight_eq_div_pow, BitVec.toNat_ofNat]

/-- A limb write replaces the limb that the address names and keeps the other. -/
theorem State.writeLimb_spec (s : State) (a : PortAddr) (d : Limb) :
    (a.getLsbD 0 = false → lo ((s.writeLimb a d).reg (limbReg a)) = d
      ∧ hi ((s.writeLimb a d).reg (limbReg a)) = hi (s.reg (limbReg a))) ∧
    (a.getLsbD 0 = true → hi ((s.writeLimb a d).reg (limbReg a)) = d
      ∧ lo ((s.writeLimb a d).reg (limbReg a)) = lo (s.reg (limbReg a))) ∧
    SameOutside [limbReg a] s (s.writeLimb a d) := by
  refine ⟨fun h => ?_, fun h => ?_, s.setReg_sameOutside ..⟩ <;>
    simp only [State.writeLimb, h, State.reg_setReg_same, if_true, Bool.false_eq_true, if_false,
      lo_ofLimbs, hi_ofLimbs, and_self]

end Sys2Proof.Machine
end

