-- ==== Sys2Proof/Laws/PerInstr.lean ====
section
/-! SUPPORT. A fact about every command, one lemma per constructor of `Instr`. -/

namespace Sys2Proof.Laws.OpcodeByte

/-- The low byte of the command word is the opcode of the map (30_encoding.md R61, R70). -/
def Statement (i : Instr) : Prop := opcodeField (encode i) = opcode i

theorem nop : Statement (.nop) := opcodeField_packFields ..

theorem ldc (rd : Reg) (k : BitVec 8) : Statement (.ldc rd k) := opcodeField_packFields ..

theorem mov (rd rs1 : Reg) : Statement (.mov rd rs1) := opcodeField_packFields ..

theorem zext8 (rd rs1 : Reg) : Statement (.zext8 rd rs1) := opcodeField_packFields ..

theorem zext16 (rd rs1 : Reg) : Statement (.zext16 rd rs1) := opcodeField_packFields ..

theorem zext32 (rd rs1 : Reg) : Statement (.zext32 rd rs1) := opcodeField_packFields ..

theorem zext64 (rd rs1 : Reg) : Statement (.zext64 rd rs1) := opcodeField_packFields ..

theorem sext8 (rd rs1 : Reg) : Statement (.sext8 rd rs1) := opcodeField_packFields ..

theorem sext16 (rd rs1 : Reg) : Statement (.sext16 rd rs1) := opcodeField_packFields ..

theorem sext32 (rd rs1 : Reg) : Statement (.sext32 rd rs1) := opcodeField_packFields ..

theorem sext64 (rd rs1 : Reg) : Statement (.sext64 rd rs1) := opcodeField_packFields ..

theorem cvtUF64 (rd rs1 : Reg) : Statement (.cvtUF64 rd rs1) := opcodeField_packFields ..

theorem cvtF64U (rd rs1 : Reg) : Statement (.cvtF64U rd rs1) := opcodeField_packFields ..

theorem cvtSF64 (rd rs1 : Reg) : Statement (.cvtSF64 rd rs1) := opcodeField_packFields ..

theorem cvtF64S (rd rs1 : Reg) : Statement (.cvtF64S rd rs1) := opcodeField_packFields ..

theorem and (rd rs1 rs2 : Reg) : Statement (.and rd rs1 rs2) := opcodeField_packFields ..

theorem or (rd rs1 rs2 : Reg) : Statement (.or rd rs1 rs2) := opcodeField_packFields ..

theorem xor (rd rs1 rs2 : Reg) : Statement (.xor rd rs1 rs2) := opcodeField_packFields ..

theorem not (rd rs1 : Reg) : Statement (.not rd rs1) := opcodeField_packFields ..

theorem shl (rd rs1 rs2 : Reg) : Statement (.shl rd rs1 rs2) := opcodeField_packFields ..

theorem shr (rd rs1 rs2 : Reg) : Statement (.shr rd rs1 rs2) := opcodeField_packFields ..

theorem sar (rd rs1 rs2 : Reg) : Statement (.sar rd rs1 rs2) := opcodeField_packFields ..

theorem shli (rd rs1 : Reg) (shamt : BitVec 7) : Statement (.shli rd rs1 shamt) := opcodeField_packFields ..

theorem shri (rd rs1 : Reg) (shamt : BitVec 7) : Statement (.shri rd rs1 shamt) := opcodeField_packFields ..

theorem sari (rd rs1 : Reg) (shamt : BitVec 7) : Statement (.sari rd rs1 shamt) := opcodeField_packFields ..

theorem eq (rd rs1 rs2 : Reg) : Statement (.eq rd rs1 rs2) := opcodeField_packFields ..

theorem ne (rd rs1 rs2 : Reg) : Statement (.ne rd rs1 rs2) := opcodeField_packFields ..

theorem uLt (rd rs1 rs2 : Reg) : Statement (.uLt rd rs1 rs2) := opcodeField_packFields ..

theorem uLe (rd rs1 rs2 : Reg) : Statement (.uLe rd rs1 rs2) := opcodeField_packFields ..

theorem uGt (rd rs1 rs2 : Reg) : Statement (.uGt rd rs1 rs2) := opcodeField_packFields ..

theorem uGe (rd rs1 rs2 : Reg) : Statement (.uGe rd rs1 rs2) := opcodeField_packFields ..

theorem uCmp (rd rs1 rs2 : Reg) : Statement (.uCmp rd rs1 rs2) := opcodeField_packFields ..

theorem uMin (rd rs1 rs2 : Reg) : Statement (.uMin rd rs1 rs2) := opcodeField_packFields ..

theorem uMax (rd rs1 rs2 : Reg) : Statement (.uMax rd rs1 rs2) := opcodeField_packFields ..

theorem sLt (rd rs1 rs2 : Reg) : Statement (.sLt rd rs1 rs2) := opcodeField_packFields ..

theorem sLe (rd rs1 rs2 : Reg) : Statement (.sLe rd rs1 rs2) := opcodeField_packFields ..

theorem sGt (rd rs1 rs2 : Reg) : Statement (.sGt rd rs1 rs2) := opcodeField_packFields ..

theorem sGe (rd rs1 rs2 : Reg) : Statement (.sGe rd rs1 rs2) := opcodeField_packFields ..

theorem sCmp (rd rs1 rs2 : Reg) : Statement (.sCmp rd rs1 rs2) := opcodeField_packFields ..

theorem sMin (rd rs1 rs2 : Reg) : Statement (.sMin rd rs1 rs2) := opcodeField_packFields ..

theorem sMax (rd rs1 rs2 : Reg) : Statement (.sMax rd rs1 rs2) := opcodeField_packFields ..

theorem add (rd rs1 rs2 : Reg) : Statement (.add rd rs1 rs2) := opcodeField_packFields ..

theorem sub (rd rs1 rs2 : Reg) : Statement (.sub rd rs1 rs2) := opcodeField_packFields ..

theorem neg (rd rs1 : Reg) : Statement (.neg rd rs1) := opcodeField_packFields ..

theorem inc (rd rs1 : Reg) : Statement (.inc rd rs1) := opcodeField_packFields ..

theorem dec (rd rs1 : Reg) : Statement (.dec rd rs1) := opcodeField_packFields ..

theorem mul (rd rs1 rs2 : Reg) : Statement (.mul rd rs1 rs2) := opcodeField_packFields ..

theorem mul64 (rd rs1 rs2 : Reg) : Statement (.mul64 rd rs1 rs2) := opcodeField_packFields ..

theorem sqr (rd rs1 : Reg) : Statement (.sqr rd rs1) := opcodeField_packFields ..

theorem cube (rd rs1 : Reg) : Statement (.cube rd rs1) := opcodeField_packFields ..

theorem pow (rd rs1 rs2 : Reg) : Statement (.pow rd rs1 rs2) := opcodeField_packFields ..

theorem uDiv (rd rs1 rs2 : Reg) : Statement (.uDiv rd rs1 rs2) := opcodeField_packFields ..

theorem uRem (rd rs1 rs2 : Reg) : Statement (.uRem rd rs1 rs2) := opcodeField_packFields ..

theorem uDivRem (rd rd2 rs1 rs2 : Reg) : Statement (.uDivRem rd rd2 rs1 rs2) := opcodeField_packFields ..

theorem sMul (rd rs1 rs2 : Reg) : Statement (.sMul rd rs1 rs2) := opcodeField_packFields ..

theorem sDiv (rd rs1 rs2 : Reg) : Statement (.sDiv rd rs1 rs2) := opcodeField_packFields ..

theorem sRem (rd rs1 rs2 : Reg) : Statement (.sRem rd rs1 rs2) := opcodeField_packFields ..

theorem sDivRem (rd rd2 rs1 rs2 : Reg) : Statement (.sDivRem rd rd2 rs1 rs2) := opcodeField_packFields ..

theorem sAbs (rd rs1 : Reg) : Statement (.sAbs rd rs1) := opcodeField_packFields ..

theorem sFsqrt (rd rs1 : Reg) : Statement (.sFsqrt rd rs1) := opcodeField_packFields ..

theorem sCsqrt (rd rs1 : Reg) : Statement (.sCsqrt rd rs1) := opcodeField_packFields ..

theorem sFcbrt (rd rs1 : Reg) : Statement (.sFcbrt rd rs1) := opcodeField_packFields ..

theorem sCcbrt (rd rs1 : Reg) : Statement (.sCcbrt rd rs1) := opcodeField_packFields ..

theorem uGcd (rd rs1 rs2 : Reg) : Statement (.uGcd rd rs1 rs2) := opcodeField_packFields ..

theorem uModAdd (rd rs1 rs2 rs3 : Reg) : Statement (.uModAdd rd rs1 rs2 rs3) := opcodeField_packFields ..

theorem uModSub (rd rs1 rs2 rs3 : Reg) : Statement (.uModSub rd rs1 rs2 rs3) := opcodeField_packFields ..

theorem uModMul (rd rs1 rs2 rs3 : Reg) : Statement (.uModMul rd rs1 rs2 rs3) := opcodeField_packFields ..

theorem uModPow (rd rs1 rs2 rs3 : Reg) : Statement (.uModPow rd rs1 rs2 rs3) := opcodeField_packFields ..

theorem uFsqrt (rd rs1 : Reg) : Statement (.uFsqrt rd rs1) := opcodeField_packFields ..

theorem uCsqrt (rd rs1 : Reg) : Statement (.uCsqrt rd rs1) := opcodeField_packFields ..

theorem uFcbrt (rd rs1 : Reg) : Statement (.uFcbrt rd rs1) := opcodeField_packFields ..

theorem uCcbrt (rd rs1 : Reg) : Statement (.uCcbrt rd rs1) := opcodeField_packFields ..

end Sys2Proof.Laws.OpcodeByte
end

