-- ==== Sys2Proof/Tests/Slice0.lean ====
section
/-! SUPPORT. Tests: the smoke of `wellFormed`, every command's word as spec/95_test_vectors.md section 2
writes it out, the illegal words of that section, at most two vectors per command from
spec/95_test_vectors.md and spec/96_test_vectors_families.md, the host port, and for every statement
with hypotheses a witness that meets them. -/

namespace Sys2Proof.Tests

open Sys2Proof Sys2Proof.Machine

/-! ## Helpers -/

/-- A state with `q0`, `q1`, `q2` as given, every other register 7, no fault and nothing outstanding. -/
def base (a b m : Word) : State :=
  ((({ State.reset with q := Vector.replicate 16 7 } : State).setReg 0 a).setReg 1 b).setReg 2 m

/-- The state in which the source fields of the word `c` hold `a`, `b`, `m`. -/
def start (c : Cmd) (a b m : Word) : State :=
  (((({ State.reset with q := Vector.replicate 16 7 } : State).setReg (rs3Field c) m).setReg
    (rs2Field c) b).setReg (rs1Field c) a)

/-- One step on the word `w` from `start`. -/
def stepped (w : Nat) (a b m : Word) : Option State :=
  match step ((start (BitVec.ofNat 32 w) a b m).withFetchWord 32 w) with
  | .next t => some t
  | _ => none

/-- The step writes `v` to register `r` and latches nothing. -/
def writes (w : Nat) (a b m : Word) (r : Reg) (v : Word) : Bool :=
  match stepped w a b m with
  | some t => t.reg r == v && t.fcode == 0
  | none => false

/-- The step latches `code` with the word `w`, and keeps what register `rd` held. -/
def latches (w : Nat) (a b m : Word) (code : BitVec 4) : Bool :=
  match stepped w a b m with
  | some t => t.fcode == code && t.fcmd == BitVec.ofNat 32 w
      && t.reg (rdField (BitVec.ofNat 32 w))
        == (start (BitVec.ofNat 32 w) a b m).reg (rdField (BitVec.ofNat 32 w))
  | none => false

/-! ## The checks of `wellFormed`, each with a term it refuses -/

theorem test_wellFormed_refuses_selector_five : wellFormed (.ldc 0 5) = false := by decide
theorem test_wellFormed_accepts_selector_four : wellFormed (.ldc 0 4) = true := by decide
theorem test_wellFormed_refuses_equal_destinations_unsigned :
    wellFormed (.uDivRem 3 3 0 1) = false := by decide
theorem test_wellFormed_refuses_equal_destinations_signed :
    wellFormed (.sDivRem 15 15 0 1) = false := by decide
theorem test_wellFormed_accepts_destination_as_source : wellFormed (.uDivRem 0 1 0 1) = true := by decide

/-! ## Every command's word, from the table of spec/95_test_vectors.md section 2: `rd = q1`, `rs1 = q2`,
`rs2 = q3`, `rs3 = rd2 = q4`, `shamt = 5`, `k = 1` -/

theorem test_decode_nop : decode 0x00000000 = .ok (.nop) := by decide
theorem test_decode_ldc : decode 0x01000110 = .ok (.ldc 1 1) := by decide
theorem test_decode_mov : decode 0x00002111 = .ok (.mov 1 2) := by decide
theorem test_decode_zext8 : decode 0x00002112 = .ok (.zext8 1 2) := by decide
theorem test_decode_zext16 : decode 0x00002113 = .ok (.zext16 1 2) := by decide
theorem test_decode_zext32 : decode 0x00002114 = .ok (.zext32 1 2) := by decide
theorem test_decode_zext64 : decode 0x00002115 = .ok (.zext64 1 2) := by decide
theorem test_decode_sext8 : decode 0x00002116 = .ok (.sext8 1 2) := by decide
theorem test_decode_sext16 : decode 0x00002117 = .ok (.sext16 1 2) := by decide
theorem test_decode_sext32 : decode 0x00002118 = .ok (.sext32 1 2) := by decide
theorem test_decode_sext64 : decode 0x00002119 = .ok (.sext64 1 2) := by decide
theorem test_decode_cvtUF64 : decode 0x0000211A = .ok (.cvtUF64 1 2) := by decide
theorem test_decode_cvtF64U : decode 0x0000211B = .ok (.cvtF64U 1 2) := by decide
theorem test_decode_cvtSF64 : decode 0x0000211C = .ok (.cvtSF64 1 2) := by decide
theorem test_decode_cvtF64S : decode 0x0000211D = .ok (.cvtF64S 1 2) := by decide
theorem test_decode_and : decode 0x00032120 = .ok (.and 1 2 3) := by decide
theorem test_decode_or : decode 0x00032121 = .ok (.or 1 2 3) := by decide
theorem test_decode_xor : decode 0x00032122 = .ok (.xor 1 2 3) := by decide
theorem test_decode_not : decode 0x00002123 = .ok (.not 1 2) := by decide
theorem test_decode_shl : decode 0x00032124 = .ok (.shl 1 2 3) := by decide
theorem test_decode_shr : decode 0x00032125 = .ok (.shr 1 2 3) := by decide
theorem test_decode_sar : decode 0x00032126 = .ok (.sar 1 2 3) := by decide
theorem test_decode_shli : decode 0x05002127 = .ok (.shli 1 2 5) := by decide
theorem test_decode_shri : decode 0x05002128 = .ok (.shri 1 2 5) := by decide
theorem test_decode_sari : decode 0x05002129 = .ok (.sari 1 2 5) := by decide
theorem test_decode_eq : decode 0x00032130 = .ok (.eq 1 2 3) := by decide
theorem test_decode_ne : decode 0x00032131 = .ok (.ne 1 2 3) := by decide
theorem test_decode_uLt : decode 0x00032132 = .ok (.uLt 1 2 3) := by decide
theorem test_decode_uLe : decode 0x00032133 = .ok (.uLe 1 2 3) := by decide
theorem test_decode_uGt : decode 0x00032134 = .ok (.uGt 1 2 3) := by decide
theorem test_decode_uGe : decode 0x00032135 = .ok (.uGe 1 2 3) := by decide
theorem test_decode_uCmp : decode 0x00032136 = .ok (.uCmp 1 2 3) := by decide
theorem test_decode_uMin : decode 0x00032137 = .ok (.uMin 1 2 3) := by decide
theorem test_decode_uMax : decode 0x00032138 = .ok (.uMax 1 2 3) := by decide
theorem test_decode_sLt : decode 0x00032139 = .ok (.sLt 1 2 3) := by decide
theorem test_decode_sLe : decode 0x0003213A = .ok (.sLe 1 2 3) := by decide
theorem test_decode_sGt : decode 0x0003213B = .ok (.sGt 1 2 3) := by decide
theorem test_decode_sGe : decode 0x0003213C = .ok (.sGe 1 2 3) := by decide
theorem test_decode_sCmp : decode 0x0003213D = .ok (.sCmp 1 2 3) := by decide
theorem test_decode_sMin : decode 0x0003213E = .ok (.sMin 1 2 3) := by decide
theorem test_decode_sMax : decode 0x0003213F = .ok (.sMax 1 2 3) := by decide
theorem test_decode_add : decode 0x00032140 = .ok (.add 1 2 3) := by decide
theorem test_decode_sub : decode 0x00032141 = .ok (.sub 1 2 3) := by decide
theorem test_decode_neg : decode 0x00002142 = .ok (.neg 1 2) := by decide
theorem test_decode_inc : decode 0x00002143 = .ok (.inc 1 2) := by decide
theorem test_decode_dec : decode 0x00002144 = .ok (.dec 1 2) := by decide
theorem test_decode_mul : decode 0x00032150 = .ok (.mul 1 2 3) := by decide
theorem test_decode_mul64 : decode 0x00032151 = .ok (.mul64 1 2 3) := by decide
theorem test_decode_sqr : decode 0x00002152 = .ok (.sqr 1 2) := by decide
theorem test_decode_cube : decode 0x00002153 = .ok (.cube 1 2) := by decide
theorem test_decode_pow : decode 0x00032154 = .ok (.pow 1 2 3) := by decide
theorem test_decode_uDiv : decode 0x00032160 = .ok (.uDiv 1 2 3) := by decide
theorem test_decode_uRem : decode 0x00032161 = .ok (.uRem 1 2 3) := by decide
theorem test_decode_uDivRem : decode 0x00432162 = .ok (.uDivRem 1 4 2 3) := by decide
theorem test_decode_sMul : decode 0x00032170 = .ok (.sMul 1 2 3) := by decide
theorem test_decode_sDiv : decode 0x00032171 = .ok (.sDiv 1 2 3) := by decide
theorem test_decode_sRem : decode 0x00032172 = .ok (.sRem 1 2 3) := by decide
theorem test_decode_sDivRem : decode 0x00432173 = .ok (.sDivRem 1 4 2 3) := by decide
theorem test_decode_sAbs : decode 0x00002174 = .ok (.sAbs 1 2) := by decide
theorem test_decode_sFsqrt : decode 0x00002178 = .ok (.sFsqrt 1 2) := by decide
theorem test_decode_sCsqrt : decode 0x00002179 = .ok (.sCsqrt 1 2) := by decide
theorem test_decode_sFcbrt : decode 0x0000217A = .ok (.sFcbrt 1 2) := by decide
theorem test_decode_sCcbrt : decode 0x0000217B = .ok (.sCcbrt 1 2) := by decide
theorem test_decode_uGcd : decode 0x00032180 = .ok (.uGcd 1 2 3) := by decide
theorem test_decode_uModAdd : decode 0x00432190 = .ok (.uModAdd 1 2 3 4) := by decide
theorem test_decode_uModSub : decode 0x00432191 = .ok (.uModSub 1 2 3 4) := by decide
theorem test_decode_uModMul : decode 0x00432192 = .ok (.uModMul 1 2 3 4) := by decide
theorem test_decode_uModPow : decode 0x00432193 = .ok (.uModPow 1 2 3 4) := by decide
theorem test_decode_uFsqrt : decode 0x000021A0 = .ok (.uFsqrt 1 2) := by decide
theorem test_decode_uCsqrt : decode 0x000021A1 = .ok (.uCsqrt 1 2) := by decide
theorem test_decode_uFcbrt : decode 0x000021A2 = .ok (.uFcbrt 1 2) := by decide
theorem test_decode_uCcbrt : decode 0x000021A3 = .ok (.uCcbrt 1 2) := by decide

/-- The words above are also what the encoder makes. -/
theorem test_encode_samples : encode (.uDivRem 1 4 2 3) = 0x00432162 ∧ encode (.shli 1 2 5) = 0x05002127
    ∧ encode (.uModMul 1 2 3 4) = 0x00432192 ∧ encode (.ldc 1 1) = 0x01000110 := by decide

/-! ## Illegal words of spec/95_test_vectors.md section 2 -/

/-- The decoder rejects the word. -/
def rejected (c : Cmd) : Bool :=
  match decode c with
  | .ok _ => false
  | .error _ => true

theorem test_rejects_1 : [(0x00000100 : Cmd), (0x80000000 : Cmd), (0x00000001 : Cmd), (0x000000FF : Cmd), (0x0001021E : Cmd), (0x0001022A : Cmd), (0x00010245 : Cmd), (0x00010263 : Cmd)].all rejected = true := by decide
theorem test_rejects_2 : [(0x00010275 : Cmd), (0x0000017C : Cmd), (0x00010281 : Cmd), (0x00210394 : Cmd), (0x000001A4 : Cmd), (0x05000310 : Cmd), (0xFF000310 : Cmd), (0x00001310 : Cmd)].all rejected = true := by decide
theorem test_rejects_3 : [(0x00010310 : Cmd), (0x00010111 : Cmd), (0x01000111 : Cmd), (0x00100111 : Cmd), (0x00110240 : Cmd), (0x01010240 : Cmd), (0x00FFFF40 : Cmd), (0x01210390 : Cmd)].all rejected = true := by decide
theorem test_rejects_4 : [(0x80000127 : Cmd), (0x00010127 : Cmd), (0x00100127 : Cmd), (0x00210262 : Cmd), (0x01310262 : Cmd), (0x00000073 : Cmd)].all rejected = true := by decide

/-- The rows of the map have 72 different opcodes. -/
theorem test_opcodeMap_has_72_opcodes :
    opcodeMap.length = 72 ∧ (opcodeMap.map fun row => row.opcode).Nodup := by decide +kernel

/-! ## Commands, by spec/95_test_vectors.md and spec/96_test_vectors_families.md -/

theorem test_nop : stepped 0 1 2 3 = some (start 0 1 2 3) := by decide
theorem test_ldc_1 : writes 0x01000310 0 0 0
    3 0x1 = true := by decide
theorem test_ldc_2 : writes 0x03000310 0 0 0
    3 0x80000000000000000000000000000000 = true := by decide
theorem test_mov_1 : writes 0x00000111 0x123456789ABCDEFFEDCBA9876543210 0 0
    1 0x123456789ABCDEFFEDCBA9876543210 = true := by decide
theorem test_mov_2 : writes 0x00000011 0x123456789ABCDEFFEDCBA9876543210 0 0
    0 0x123456789ABCDEFFEDCBA9876543210 = true := by decide
theorem test_zext8_1 : writes 0x00000112 0x1111111111111111123456789ABCDE80 0 0
    1 0x80 = true := by decide
theorem test_zext8_2 : writes 0x00000112 0x8000000080008080 0 0
    1 0x80 = true := by decide
theorem test_zext16_1 : writes 0x00000113 0x1111111111111111123456789ABCDE80 0 0
    1 0xDE80 = true := by decide
theorem test_zext32_1 : writes 0x00000114 0x1111111111111111123456789ABCDE80 0 0
    1 0x9ABCDE80 = true := by decide
theorem test_zext64_1 : writes 0x00000115 0x1111111111111111123456789ABCDE80 0 0
    1 0x123456789ABCDE80 = true := by decide
theorem test_sext8_1 : writes 0x00000116 0x1111111111111111123456789ABCDE80 0 0
    1 0xFFFFFFFFFFFFFFFFFFFFFFFFFFFFFF80 = true := by decide
theorem test_sext8_2 : writes 0x00000116 0x7F 0 0
    1 0x7F = true := by decide
theorem test_sext16_1 : writes 0x00000117 0x1111111111111111123456789ABCDE80 0 0
    1 0xFFFFFFFFFFFFFFFFFFFFFFFFFFFFDE80 = true := by decide
theorem test_sext16_2 : writes 0x00000117 0x8000000080008080 0 0
    1 0xFFFFFFFFFFFFFFFFFFFFFFFFFFFF8080 = true := by decide
theorem test_sext32_1 : writes 0x00000118 0x1111111111111111123456789ABCDE80 0 0
    1 0xFFFFFFFFFFFFFFFFFFFFFFFF9ABCDE80 = true := by decide
theorem test_sext32_2 : writes 0x00000118 0x8000000080008080 0 0
    1 0xFFFFFFFFFFFFFFFFFFFFFFFF80008080 = true := by decide
theorem test_sext64_1 : writes 0x00000119 0x1111111111111111123456789ABCDE80 0 0
    1 0x123456789ABCDE80 = true := by decide
theorem test_sext64_2 : writes 0x00000119 0x8000000080008080 0 0
    1 0xFFFFFFFFFFFFFFFF8000000080008080 = true := by decide
theorem test_cvtUF64_1 : writes 0x0000011A 0xDEAD3FF0000000000000 0 0
    1 0x1 = true := by decide
theorem test_cvtUF64_2 : writes 0x0000011A 0x4059000000000000 0 0
    1 0x64 = true := by decide
theorem test_cvtF64U_1 : writes 0x0000011B 0xFFFFFFFFFFFFF8000000000000000000 0 0
    1 0x47EFFFFFFFFFFFFF = true := by decide
theorem test_cvtF64U_2 : writes 0x0000011B 0x10000000000000000 0 0
    1 0x43F0000000000000 = true := by decide
theorem test_cvtSF64_1 : writes 0x0000011C 0xC014000000000000 0 0
    1 0xFFFFFFFFFFFFFFFFFFFFFFFFFFFFFFFB = true := by decide
theorem test_cvtSF64_2 : writes 0x0000011C 0x4014000000000000 0 0
    1 0x5 = true := by decide
theorem test_cvtF64S_1 : writes 0x0000011D 0xFFFFFFFFFFFFFFFFFFFFFFFFFFFFFFFB 0 0
    1 0xC014000000000000 = true := by decide +kernel
theorem test_cvtF64S_2 : writes 0x0000011D 0x80000000000000000000000000000000 0 0
    1 0xC7E0000000000000 = true := by decide +kernel
theorem test_and_1 : writes 0x00010220 0xFF00FF00FF00FF000F0F0F0F0F0F0F0F 0xFF00FF00FF00FF0FFFF0000FFFF0000 0
    2 0xF000F000F000F000F0F00000F0F0000 = true := by decide
theorem test_and_2 : writes 0x00000120 0xFF00FF00FF00FF000F0F0F0F0F0F0F0F 0xFF00FF00FF00FF000F0F0F0F0F0F0F0F 0
    1 0xFF00FF00FF00FF000F0F0F0F0F0F0F0F = true := by decide
theorem test_or_1 : writes 0x00010221 0xFF00FF00FF00FF000F0F0F0F0F0F0F0F 0xFF00FF00FF00FF0FFFF0000FFFF0000 0
    2 0xFFF0FFF0FFF0FFF0FFFF0F0FFFFF0F0F = true := by decide
theorem test_or_2 : writes 0x00000121 0xFF00FF00FF00FF000F0F0F0F0F0F0F0F 0xFF00FF00FF00FF000F0F0F0F0F0F0F0F 0
    1 0xFF00FF00FF00FF000F0F0F0F0F0F0F0F = true := by decide
theorem test_xor_1 : writes 0x00010222 0xFF00FF00FF00FF000F0F0F0F0F0F0F0F 0xFF00FF00FF00FF0FFFF0000FFFF0000 0
    2 0xF0F0F0F0F0F0F0F0F0F00F0FF0F00F0F = true := by decide
theorem test_xor_2 : writes 0x00000122 0xFF00FF00FF00FF000F0F0F0F0F0F0F0F 0xFF00FF00FF00FF000F0F0F0F0F0F0F0F 0
    1 0x0 = true := by decide
theorem test_not_1 : writes 0x00000123 0xFF00FF00FF00FF000F0F0F0F0F0F0F0F 0 0
    1 0xFF00FF00FF00FFF0F0F0F0F0F0F0F0 = true := by decide
theorem test_not_2 : writes 0x00000123 0xFFFFFFFFFFFFFFFFFFFFFFFFFFFFFFFF 0 0
    1 0x0 = true := by decide
theorem test_shl_1 : writes 0x00010224 0x123456789ABCDEFFEDCBA9876543210 0x1 0
    2 0x2468ACF13579BDFFDB97530ECA86420 = true := by decide
theorem test_shl_2 : writes 0x00010024 0x123456789ABCDEFFEDCBA9876543210 0x7 0
    0 0x91A2B3C4D5E6F7FF6E5D4C3B2A190800 = true := by decide
theorem test_shr_1 : writes 0x00010225 0x8123456789ABCDEFFEDCBA9876543210 0x1 0
    2 0x4091A2B3C4D5E6F7FF6E5D4C3B2A1908 = true := by decide
theorem test_shr_2 : writes 0x00010225 0x8123456789ABCDEFFEDCBA9876543210 0x3F 0
    2 0x102468ACF13579BDF = true := by decide
theorem test_sar_1 : writes 0x00010226 0x8123456789ABCDEFFEDCBA9876543210 0x1 0
    2 0xC091A2B3C4D5E6F7FF6E5D4C3B2A1908 = true := by decide
theorem test_sar_2 : writes 0x00010226 0xFFFFFFFFFFFFFFFFFFFFFFFFFFFFFFFF 0x7F 0
    2 0xFFFFFFFFFFFFFFFFFFFFFFFFFFFFFFFF = true := by decide
theorem test_shli_1 : writes 0x00000127 0x8123456789ABCDEFFEDCBA9876543210 0 0
    1 0x8123456789ABCDEFFEDCBA9876543210 = true := by decide
theorem test_shli_2 : writes 0x04000127 0x8123456789ABCDEFFEDCBA9876543210 0 0
    1 0x123456789ABCDEFFEDCBA98765432100 = true := by decide
theorem test_shri_1 : writes 0x00000128 0x8123456789ABCDEFFEDCBA9876543210 0 0
    1 0x8123456789ABCDEFFEDCBA9876543210 = true := by decide
theorem test_shri_2 : writes 0x04000128 0x8123456789ABCDEFFEDCBA9876543210 0 0
    1 0x8123456789ABCDEFFEDCBA987654321 = true := by decide
theorem test_sari_1 : writes 0x00000129 0x8123456789ABCDEFFEDCBA9876543210 0 0
    1 0x8123456789ABCDEFFEDCBA9876543210 = true := by decide
theorem test_sari_2 : writes 0x04000129 0x8123456789ABCDEFFEDCBA9876543210 0 0
    1 0xF8123456789ABCDEFFEDCBA987654321 = true := by decide
theorem test_eq_1 : writes 0x00010230 0x70000000000000001 0x70000000000000002 0
    2 0x0 = true := by decide
theorem test_eq_2 : writes 0x00010230 0x80000000000000000000000000000000 0x80000000000000000000000000000000 0
    2 0x1 = true := by decide
theorem test_ne_1 : writes 0x00010231 0x70000000000000001 0x70000000000000002 0
    2 0x1 = true := by decide
theorem test_ne_2 : writes 0x00010231 0xFFFFFFFFFFFFFFFF 0x10000000000000000 0
    2 0x1 = true := by decide
theorem test_uLt_1 : writes 0x00010232 0x70000000000000001 0x70000000000000002 0
    2 0x1 = true := by decide
theorem test_uLt_2 : writes 0x00010232 0xFFFFFFFFFFFFFFFF 0x10000000000000000 0
    2 0x1 = true := by decide
theorem test_uLe_1 : writes 0x00010233 0x70000000000000001 0x70000000000000002 0
    2 0x1 = true := by decide
theorem test_uLe_2 : writes 0x00010233 0xFFFFFFFFFFFFFFFF 0x10000000000000000 0
    2 0x1 = true := by decide
theorem test_uGt_1 : writes 0x00010234 0x80000000000000000000000000000005 0x10000000000000009 0
    2 0x1 = true := by decide
theorem test_uGt_2 : writes 0x00010234 0x80000000000000000000000000000000 0x7FFFFFFFFFFFFFFFFFFFFFFFFFFFFFFF 0
    2 0x1 = true := by decide
theorem test_uGe_1 : writes 0x00010235 0x80000000000000000000000000000005 0x10000000000000009 0
    2 0x1 = true := by decide
theorem test_uGe_2 : writes 0x00010235 0x80000000000000000000000000000000 0x7FFFFFFFFFFFFFFFFFFFFFFFFFFFFFFF 0
    2 0x1 = true := by decide
theorem test_uCmp_1 : writes 0x00010236 0x80000000000000000000000000000005 0x10000000000000009 0
    2 0x1 = true := by decide
theorem test_uCmp_2 : writes 0x00010236 0x80000000000000000000000000000000 0x7FFFFFFFFFFFFFFFFFFFFFFFFFFFFFFF 0
    2 0x1 = true := by decide
theorem test_uMin_1 : writes 0x00010237 0x70000000000000001 0x70000000000000002 0
    2 0x70000000000000001 = true := by decide
theorem test_uMin_2 : writes 0x00010237 0xFFFFFFFFFFFFFFFF 0x10000000000000000 0
    2 0xFFFFFFFFFFFFFFFF = true := by decide
theorem test_uMax_1 : writes 0x00010238 0x70000000000000001 0x70000000000000002 0
    2 0x70000000000000002 = true := by decide
theorem test_uMax_2 : writes 0x00010238 0xFFFFFFFFFFFFFFFF 0x10000000000000000 0
    2 0x10000000000000000 = true := by decide
theorem test_sLt_1 : writes 0x00010239 0x70000000000000001 0x70000000000000002 0
    2 0x1 = true := by decide
theorem test_sLt_2 : writes 0x00010239 0xFFFFFFFFFFFFFFFF 0x10000000000000000 0
    2 0x1 = true := by decide
theorem test_sLe_1 : writes 0x0001023A 0x70000000000000001 0x70000000000000002 0
    2 0x1 = true := by decide
theorem test_sLe_2 : writes 0x0001023A 0xFFFFFFFFFFFFFFFF 0x10000000000000000 0
    2 0x1 = true := by decide
theorem test_sGt_1 : writes 0x0001023B 0x70000000000000001 0x70000000000000002 0
    2 0x0 = true := by decide
theorem test_sGt_2 : writes 0x0001023B 0x7FFFFFFFFFFFFFFFFFFFFFFFFFFFFFFF 0x80000000000000000000000000000000 0
    2 0x1 = true := by decide
theorem test_sGe_1 : writes 0x0001023C 0x70000000000000001 0x70000000000000002 0
    2 0x0 = true := by decide
theorem test_sGe_2 : writes 0x0001023C 0x7FFFFFFFFFFFFFFFFFFFFFFFFFFFFFFF 0x80000000000000000000000000000000 0
    2 0x1 = true := by decide
theorem test_sCmp_1 : writes 0x0001023D 0x70000000000000001 0x70000000000000002 0
    2 0xFFFFFFFFFFFFFFFFFFFFFFFFFFFFFFFF = true := by decide
theorem test_sCmp_2 : writes 0x0001023D 0x7FFFFFFFFFFFFFFFFFFFFFFFFFFFFFFF 0x80000000000000000000000000000000 0
    2 0x1 = true := by decide
theorem test_sMin_1 : writes 0x0001023E 0x70000000000000001 0x70000000000000002 0
    2 0x70000000000000001 = true := by decide
theorem test_sMin_2 : writes 0x0001023E 0xFFFFFFFFFFFFFFFF 0x10000000000000000 0
    2 0xFFFFFFFFFFFFFFFF = true := by decide
theorem test_sMax_1 : writes 0x0001023F 0x70000000000000001 0x70000000000000002 0
    2 0x70000000000000002 = true := by decide
theorem test_sMax_2 : writes 0x0001023F 0xFFFFFFFFFFFFFFFF 0x10000000000000000 0
    2 0x10000000000000000 = true := by decide
theorem test_add_1 : writes 0x00000040 0x123456789ABCDEFFEDCBA9876543210 0x123456789ABCDEFFEDCBA9876543210 0
    0 0x2468ACF13579BDFFDB97530ECA86420 = true := by decide
theorem test_add_2 : writes 0x00010240 0x7FFFFFFFFFFFFFFFFFFFFFFFFFFFFFFF 0x1 0
    2 0x80000000000000000000000000000000 = true := by decide
theorem test_sub_1 : writes 0x00010241 0x123456789ABCDEFFEDCBA9876543210 0x123456789ABCDEFFEDCBA9876543210 0
    2 0x0 = true := by decide
theorem test_sub_2 : writes 0x00010241 0x10000000000000000 0x1 0
    2 0xFFFFFFFFFFFFFFFF = true := by decide
theorem test_neg_1 : writes 0x00000142 0x5 0 0
    1 0xFFFFFFFFFFFFFFFFFFFFFFFFFFFFFFFB = true := by decide
theorem test_neg_2 : writes 0x00000142 0x80000000000000000000000000000000 0 0
    1 0x80000000000000000000000000000000 = true := by decide
theorem test_inc_1 : writes 0x00000143 0xFFFFFFFFFFFFFFFF 0 0
    1 0x10000000000000000 = true := by decide
theorem test_inc_2 : writes 0x00000143 0x7FFFFFFFFFFFFFFFFFFFFFFFFFFFFFFF 0 0
    1 0x80000000000000000000000000000000 = true := by decide
theorem test_dec_1 : writes 0x00000144 0x10000000000000000 0 0
    1 0xFFFFFFFFFFFFFFFF = true := by decide
theorem test_dec_2 : writes 0x00000144 0x80000000000000000000000000000000 0 0
    1 0x7FFFFFFFFFFFFFFFFFFFFFFFFFFFFFFF = true := by decide
theorem test_mul_1 : writes 0x00010250 0x123456789ABCDEFFEDCBA9876543210 0x123456789ABCDEFFEDCBA9876543210 0
    2 0x422871B7939F74ACDEEC6CD7A44A4100 = true := by decide
theorem test_mul_2 : writes 0x00010250 0xFFFFFFFFFFFFFFFFFFFFFFFFFFFFFFFF 0x2 0
    2 0xFFFFFFFFFFFFFFFFFFFFFFFFFFFFFFFE = true := by decide
theorem test_mul64_1 : writes 0x00010251 0x123456789ABCDEFFEDCBA9876543210 0xFFFFFFFFFFFFFFFF 0
    2 0xFDB97530ECA864200123456789ABCDF0 = true := by decide
theorem test_mul64_2 : writes 0x00010251 0xFFFFFFFFFFFFFFFFFFFFFFFFFFFFFFFF 0xFFFFFFFFFFFFFFFF 0
    2 0xFFFFFFFFFFFFFFFF0000000000000001 = true := by decide
theorem test_sqr_1 : writes 0x00000152 0x123456789ABCDEFFEDCBA9876543210 0 0
    1 0x422871B7939F74ACDEEC6CD7A44A4100 = true := by decide
theorem test_sqr_2 : writes 0x00000152 0x10000000000000000 0 0
    1 0x0 = true := by decide
theorem test_cube_1 : writes 0x00000153 0x123456789ABCDEFFEDCBA9876543210 0 0
    1 0xCF73DB743A6306CC93D5A5E419561000 = true := by decide
theorem test_cube_2 : writes 0x00000153 0xFFFFFFFFFFFFFFFFFFFFFFFFFFFFFFFF 0 0
    1 0xFFFFFFFFFFFFFFFFFFFFFFFFFFFFFFFF = true := by decide
theorem test_pow_1 : writes 0x00010254 0x123456789ABCDEFFEDCBA9876543210 0x1 0
    2 0x123456789ABCDEFFEDCBA9876543210 = true := by decide +kernel
theorem test_pow_2 : latches 0x00010254 0x3 0xFFFFFFFFFFFFFFFFFFFFFFFFFFFFFFFF 0 3 = true := by decide +kernel
theorem test_uDiv_1 : writes 0x00000160 0x123456789ABCDEFFEDCBA9876543210 0x123456789ABCDEFFEDCBA9876543210 0
    1 0x1 = true := by decide
theorem test_uDiv_2 : latches 0x00010260 0x123456789ABCDEFFEDCBA9876543210 0x0 0 2 = true := by decide
theorem test_uRem_1 : writes 0x00010261 0x123456789ABCDEFFEDCBA9876543210 0x123456789 0
    2 0x118188099 = true := by decide
theorem test_uRem_2 : latches 0x00010261 0x123456789ABCDEFFEDCBA9876543210 0x0 0 2 = true := by decide
theorem test_uDivRem_1 : (writes 0x00310262 0x123456789ABCDEFFEDCBA9876543210 0x123456789ABCDEFFEDCBA9876543211 0
    2 0x0 = true) ∧
    (writes 0x00310262 0x123456789ABCDEFFEDCBA9876543210 0x123456789ABCDEFFEDCBA9876543211 0
      3 0x123456789ABCDEFFEDCBA9876543210 = true) := by decide
theorem test_uDivRem_2 : latches 0x00310262 0x123456789ABCDEFFEDCBA9876543210 0x0 0 2 = true := by decide
theorem test_sMul_1 : writes 0x00010270 0xFFFFFFFFFFFFFFFFFFFFFFFFFFFFFFFB 0xFFFFFFFFFFFFFFFFFFFFFFFFFFFFFFFD 0
    2 0xF = true := by decide
theorem test_sMul_2 : writes 0x00010270 0x7FFFFFFFFFFFFFFFFFFFFFFFFFFFFFFF 0x7FFFFFFFFFFFFFFFFFFFFFFFFFFFFFFF 0
    2 0x1 = true := by decide
theorem test_sDiv_1 : writes 0x00010271 0xFFFFFFFFFFFFFFFFFFFFFFFFFFFFFFFB 0x2 0
    2 0xFFFFFFFFFFFFFFFFFFFFFFFFFFFFFFFE = true := by decide
theorem test_sDiv_2 : latches 0x00010271 0xFFFFFFFFFFFFFFFFFFFFFFFFFFFFFFFB 0x0 0 2 = true := by decide
theorem test_sRem_1 : writes 0x00010272 0x7 0xFFFFFFFFFFFFFFFFFFFFFFFFFFFFFFFD 0
    2 0x1 = true := by decide
theorem test_sRem_2 : latches 0x00010272 0xFFFFFFFFFFFFFFFFFFFFFFFFFFFFFFFB 0x0 0 2 = true := by decide
theorem test_sDivRem_1 : (writes 0x00310273 0xFEDCBA98765432100123456789ABCDF0 0x7 0
    2 0xFFD663CCA330997000299C335CCF6690 = true) ∧
    (writes 0x00310273 0xFEDCBA98765432100123456789ABCDF0 0x7 0
      3 0x0 = true) := by decide
theorem test_sDivRem_2 : latches 0x00310273 0xFFFFFFFFFFFFFFFFFFFFFFFFFFFFFFFB 0x0 0 2 = true := by decide
theorem test_sAbs_1 : writes 0x00000174 0xFFFFFFFFFFFFFFFFFFFFFFFFFFFFFFFB 0 0
    1 0x5 = true := by decide
theorem test_sAbs_2 : writes 0x00000174 0x80000000000000000000000000000000 0 0
    1 0x80000000000000000000000000000000 = true := by decide
theorem test_sFsqrt_1 : writes 0x00000178 0x7FFFFFFFFFFFFFFFFFFFFFFFFFFFFFFF 0 0
    1 0xB504F333F9DE6484 = true := by decide +kernel
theorem test_sFsqrt_2 : latches 0x00000178 0xFFFFFFFFFFFFFFFFFFFFFFFFFFFFFFFF 0 0 3 = true := by decide +kernel
theorem test_sCsqrt_1 : writes 0x00000179 0x7FFFFFFFFFFFFFFFFFFFFFFFFFFFFFFF 0 0
    1 0xB504F333F9DE6485 = true := by decide +kernel
theorem test_sCsqrt_2 : latches 0x00000179 0xFFFFFFFFFFFFFFFFFFFFFFFFFFFFFFFF 0 0 3 = true := by decide +kernel
theorem test_sFcbrt_1 : writes 0x0000017A 0x7FFFFFFFFFFFFFFFFFFFFFFFFFFFFFFF 0 0
    1 0x50A28BE635C = true := by decide +kernel
theorem test_sFcbrt_2 : latches 0x0000017A 0xFFFFFFFFFFFFFFFFFFFFFFFFFFFFFFFF 0 0 3 = true := by decide +kernel
theorem test_sCcbrt_1 : writes 0x0000017B 0x7FFFFFFFFFFFFFFFFFFFFFFFFFFFFFFF 0 0
    1 0x50A28BE635D = true := by decide +kernel
theorem test_sCcbrt_2 : latches 0x0000017B 0xFFFFFFFFFFFFFFFFFFFFFFFFFFFFFFFF 0 0 3 = true := by decide +kernel
theorem test_uGcd_1 : writes 0x00010280 0x123456789ABCDEFFEDCBA9876543210 0x123456789ABCDEFFEDCBA9876543210 0
    2 0x123456789ABCDEFFEDCBA9876543210 = true := by decide
theorem test_uGcd_2 : writes 0x00010280 0x80000000000000000000000000000000 0x10000000000000000 0
    2 0x10000000000000000 = true := by decide
theorem test_uModAdd_1 : writes 0x00210390 0xFEDCBA9876543210FEDCBA9876543210 0x123456789ABCDEF0123456789ABCDEF 0xFFFFFFFFFFFFFFC5
    3 0xD98 = true := by decide
theorem test_uModAdd_2 : latches 0x00210390 0xFEDCBA9876543210FEDCBA9876543210 0x123456789ABCDEF0123456789ABCDEF 0x0 2 = true := by decide
theorem test_uModSub_1 : writes 0x00210391 0xFEDCBA9876543210FEDCBA9876543210 0x123456789ABCDEF0123456789ABCDEF 0xFFFFFFFFFFFFFFFFFFFFFFFFFFFFFF61
    3 0xFDB97530ECA86421FDB97530ECA86421 = true := by decide
theorem test_uModSub_2 : latches 0x00210391 0xFEDCBA9876543210FEDCBA9876543210 0x123456789ABCDEF0123456789ABCDEF 0x0 2 = true := by decide
theorem test_uModMul_1 : writes 0x00210392 0xFEDCBA9876543210FEDCBA9876543210 0x123456789ABCDEF0123456789ABCDEF 0xFFFFFFFFFFFFFFC5
    3 0xF13579BE0243EDA4 = true := by decide
theorem test_uModMul_2 : latches 0x00210392 0xFEDCBA9876543210FEDCBA9876543210 0x123456789ABCDEF0123456789ABCDEF 0x0 2 = true := by decide
theorem test_uModPow_1 : writes 0x00210393 0x123456789ABCDEF0123456789ABCDEF 0xFEDCBA9876543210FEDCBA9876543210 0xFFFFFFFFFFFFFFFFFFFFFFFFFFFFFF61
    3 0xF4A5BAE51DEC1E61410924576E934B2B = true := by decide +kernel
theorem test_uModPow_2 : latches 0x00210393 0xFEDCBA9876543210FEDCBA9876543210 0x123456789ABCDEF0123456789ABCDEF 0x0 2 = true := by decide +kernel
theorem test_uFsqrt_1 : writes 0x000001A0 0x4B3B4CA85A86C47A098A224000000000 0 0
    1 0x8AC7230489E80000 = true := by decide +kernel
theorem test_uFsqrt_2 : writes 0x000001A0 0x80000000000000000000000000000000 0 0
    1 0xB504F333F9DE6484 = true := by decide +kernel
theorem test_uCsqrt_1 : writes 0x000001A1 0x4B3B4CA85A86C47A098A224000000000 0 0
    1 0x8AC7230489E80000 = true := by decide +kernel
theorem test_uCsqrt_2 : writes 0x000001A1 0x80000000000000000000000000000000 0 0
    1 0xB504F333F9DE6485 = true := by decide +kernel
theorem test_uFcbrt_1 : writes 0x000001A2 0x123456789ABCDEFFEDCBA9876543210 0 0
    1 0x10B41455732 = true := by decide +kernel
theorem test_uFcbrt_2 : writes 0x000001A2 0x80000000000000000000000000000000 0 0
    1 0x50A28BE635C = true := by decide +kernel
theorem test_uCcbrt_1 : writes 0x000001A3 0x123456789ABCDEFFEDCBA9876543210 0 0
    1 0x10B41455733 = true := by decide +kernel
theorem test_uCcbrt_2 : writes 0x000001A3 0x80000000000000000000000000000000 0 0
    1 0x50A28BE635D = true := by decide +kernel

/-! ## The host port (spec/20_memory.md R41 to R46, spec/60_exceptions.md R364 to R367) -/

/-- `base 6 3 4` with the host transactions `p` outstanding. -/
def port (p : List Transaction) : State := { base 6 3 4 with pending := p }

/-- What `k` steps from `port p` leave: the returned data, the code and the word of the latch. -/
def afterSteps (k : Nat) (p : List Transaction) : Option (List Limb × BitVec 4 × Cmd) :=
  match Host.Core.run core k (port p) with
  | .next t => some (State.returned t, State.fcode t, State.fcmd t)
  | _ => none

/-- `U.DIV q2, q0, q4` by a zero divisor latches code 2; the next command is dropped; the clear
lets one run (95_test_vectors.md section 3). -/
theorem test_fault_latch_drop_and_clear :
    afterSteps 6 [.write 0x08 0, .write 0x09 0, .write 0x20 0x00040260, .write 0x20 0x00000001,
      .read 0x21, .write 0x21 5] = some ([0x0004026000000002], 0, 0) := by decide

/-- A set upper half is illegal although the low half is `NOP`, and the word recorded is the low half. -/
theorem test_upper_half_is_illegal :
    afterSteps 1 [.write 0x20 0x0000000100000240] = some ([], 1, 0x00000240) := by decide

/-- Reads of a low limb, a high limb, `CMD` and a reserved address. -/
theorem test_port_reads :
    afterSteps 5 [.write 0x01 9, .read 0x00, .read 0x01, .read 0x20, .read 0x3F]
      = some ([6, 9, 0, 0], 0, 0) := by decide

/-- `WRQ q15` is the transactions at `0x1E` and `0x1F`, low limb first (30_encoding.md R74). -/
theorem test_wrq_q15 : lineTransactions (.wrq 15 0x00000000000000020000000000000001)
    = [.write 0x1E 1, .write 0x1F 2] := by decide

/-! ## Witnesses: a state and operands that meet the hypotheses of each statement, clause by clause -/

theorem witness_DecodeOfEncodeIsIdentity : ∃ i, wellFormed i = true := ⟨.ldc 15 4, by decide⟩

theorem witness_EncodeOfDecodeIsIdentity : ∃ c i, decode c = .ok i := ⟨0x00210390, _, test_decode_sample⟩
where test_decode_sample : decode 0x00210390 = .ok (.uModAdd 3 0 1 2) := by decide

/-- Cases (a) to (d) of R71, the set upper half, and a legal word, each as the data of a `CMD` write. -/
theorem witness_IllegalWordsAreExactlyTheFourCases :
    (port [.write 0x20 0]).pending = .write 0x20 0 :: [] ∧ (port [.write 0x20 0]).fcode = 0
    ∧ formatOf 0x01 = none ∧ (formatOf 0x40 = some .r2 ∧ (0x00110240 : Cmd) &&& Format.r2.zeroBits ≠ 0)
    ∧ 5 ≤ ((0x05000310 : Cmd).extractLsb' 24 8).toNat
    ∧ (formatOf 0x62 = some .r2d ∧ (0x00210262 : Cmd).extractLsb' 8 4 = (0x00210262 : Cmd).extractLsb' 20 4)
    ∧ 2 ^ 32 ≤ (0x100000000 : Limb).toNat := by decide

/-- A word with none of the four faults. -/
theorem witness_legal_word : ¬ IllegalWord 0x00310262 := by
  have h : formatOf ((0x00310262 : Cmd).extractLsb' 0 8) = some .r2d := by decide
  rintro (e | ⟨f, e, z⟩ | ⟨e, -⟩ | ⟨-, e⟩)
  · rw [h] at e; cases e
  · rw [h] at e; cases e; revert z; decide
  · revert e; decide
  · revert e; decide

/-- A word of each illegal case. -/
theorem witness_illegal_words : IllegalWord 0x00000001 ∧ IllegalWord 0x00110240 ∧ IllegalWord 0x05000310
    ∧ IllegalWord 0x00210262 :=
  ⟨.inl (by decide), .inr (.inl ⟨.r2, by decide, by decide⟩), .inr (.inr (.inl (by decide))),
    .inr (.inr (.inr (by decide)))⟩

theorem witness_StepRunsTheDecodedCommand : ∃ (s : State) (i : Instr) (rest : List Transaction),
    wellFormed i = true ∧ s.pending = .write 0x20 (0#32 ++ encode i) :: rest ∧ s.fcode = 0 :=
  ⟨port [.write 0x20 (0#32 ++ encode (.add 2 0 1))], .add 2 0 1, [], by decide⟩

/-- The four clauses of a `CMD` write: latched, upper half set, legal, illegal; and a read of `CMD`. -/
theorem witness_CmdWriteDecodesAndExecutes :
    (∃ s : State, s.pending = .write 0x20 1 :: [] ∧ s.fcode ≠ 0) ∧
    (∃ s : State, s.pending = .write 0x20 0x100000000 :: [] ∧ s.fcode = 0
      ∧ 2 ^ 32 ≤ (0x100000000 : Limb).toNat) ∧
    (∃ s : State, s.pending = .write 0x20 0 :: [] ∧ s.fcode = 0
      ∧ decode ((0 : Limb).extractLsb' 0 32) = .ok .nop) ∧
    (∃ s : State, s.pending = .write 0x20 0xFFFFFFFF :: [] ∧ s.fcode = 0
      ∧ (0xFFFFFFFF : Limb).toNat < 2 ^ 32
      ∧ decode ((0xFFFFFFFF : Limb).extractLsb' 0 32) = .error (.unknownOpcode 0xFF)) ∧
    (∃ s : State, s.pending = .read 0x20 :: []) :=
  ⟨⟨(port [.write 0x20 1]).raise .domainError 0x178, by decide⟩, ⟨port [.write 0x20 0x100000000], by decide⟩,
    ⟨port [.write 0x20 0], by decide⟩, ⟨port [.write 0x20 0xFFFFFFFF], by decide⟩, ⟨port [.read 0x20], by decide⟩⟩

theorem witness_LatchedFaultDropsCommandsOnly : ∀ t : Transaction,
    ∃ s : State, s.fcode ≠ 0 ∧ s.pending = t :: [] :=
  fun t => ⟨{ base 6 3 4 with fcode := 2, pending := [t] }, (by decide : (2 : BitVec 4) ≠ 0), rfl⟩

/-- The ends of the limb addresses, for writes and for reads. -/
theorem witness_LimbWriteReplacesOneLimb : ∃ s t : State,
    s.pending = .write 0x00 5 :: [] ∧ (0x00 : PortAddr).toNat ≤ 0x1F
    ∧ t.pending = .write 0x1F 5 :: [] ∧ (0x1F : PortAddr).toNat ≤ 0x1F :=
  ⟨port [.write 0x00 5], port [.write 0x1F 5], by decide⟩

theorem witness_LimbReadReturnsTheLimb : ∃ s t : State, s.pending = .read 0x00 :: [] ∧ t.pending = .read 0x1F :: [] :=
  ⟨port [.read 0x00], port [.read 0x1F], by decide⟩

theorem witness_StatusReadsWholeAndClearsOnWrite : ∃ s t : State,
    s.pending = .read 0x21 :: [] ∧ t.pending = .write 0x21 7 :: [] :=
  ⟨port [.read 0x21], port [.write 0x21 7], by decide⟩

/-- The ends of the reserved addresses. -/
theorem witness_ReservedAddressesReadZeroAndIgnoreWrites : ∃ s t : State,
    s.pending = .read 0x22 :: [] ∧ 0x22 ≤ (0x22 : PortAddr).toNat
    ∧ t.pending = .write 0x3F 7 :: [] ∧ 0x22 ≤ (0x3F : PortAddr).toNat :=
  ⟨port [.read 0x22], port [.write 0x3F 7], by decide⟩

theorem witness_WrittenRegisterReadsBack : ∃ (s : State) (rest : List Transaction),
    s.pending = lineTransactions (.wrq 15 sMinWord) ++ lineTransactions (.rdq 15) ++ rest :=
  ⟨port (lineTransactions (.wrq 15 sMinWord) ++ lineTransactions (.rdq 15) ++ []), [], rfl⟩

theorem witness_ResetDrawsRegistersAndClearsTheLatch : ∃ (s : State) (rest more : List Transaction) (i : Instr),
    s.pending = .reset :: rest ∧ wellFormed i = true ∧ rest = .write 0x20 (0#32 ++ encode i) :: more :=
  ⟨port [.reset, .write 0x20 (0#32 ++ encode .nop)], _, [], .nop, rfl, rfl, rfl⟩

/-- States of the invariant with no fault and with each code, and a step from one of them. -/
theorem witness_EveryStepKeepsTheLatchInvariant :
    LatchInv (port []) ∧ LatchInv ((port []).raise .illegalCommand 0xFF)
    ∧ LatchInv ((port []).raise .divideByZero 0x00010260) ∧ LatchInv ((port []).raise .domainError 0x00010254)
    ∧ ∃ s t : State, LatchInv s ∧ step s = .next t := by
  have h0 : LatchInv (port []) := ⟨fun _ => rfl, .inl rfl, fun h => absurd h (by decide), fun h => absurd h (by decide)⟩
  refine ⟨h0, ⟨fun h => absurd h (by decide), .inr (.inl rfl), fun h => absurd h (by decide), fun h => absurd h (by decide)⟩,
    ⟨fun h => absurd h (by decide), .inr (.inr (.inl rfl)), fun _ => ⟨.uDiv 2 0 1, by decide, by decide⟩, fun h => absurd h (by decide)⟩,
    ⟨fun h => absurd h (by decide), .inr (.inr (.inr rfl)), fun h => absurd h (by decide), fun _ => ⟨.pow 2 0 1, by decide, by decide⟩⟩,
    port [], port [], h0, rfl⟩

theorem witness_EveryStepAnswersANextState : ∃ s : State, s.pending = [] := ⟨State.reset, rfl⟩

/-- A command with a divisor, one with a domain, and one with neither, in a state that lets all run. -/
theorem witness_NoFaultOutsideTheListedConditions :
    (wellFormed (.uDiv 2 0 1) = true ∧ divisorReg (.uDiv 2 0 1) = some 1 ∧ ((base 6 3 4).reg 1).toNat ≠ 0)
    ∧ (wellFormed (.pow 2 0 1) = true ∧ domainReg (.pow 2 0 1) = some 1 ∧ 0 ≤ ((base 6 3 4).reg 1).toInt)
    ∧ (divisorReg (.add 2 0 1) = none ∧ domainReg (.add 2 0 1) = none) := by decide

theorem witness_OperandFaultsLatchTheirCode :
    (wellFormed (.uModPow 3 0 1 2) = true ∧ divisorReg (.uModPow 3 0 1 2) = some 2
      ∧ ((base 6 3 0).reg 2).toNat = 0)
    ∧ (wellFormed (.sFsqrt 1 0) = true ∧ domainReg (.sFsqrt 1 0) = some 0
      ∧ ((base sMinWord 3 0).reg 0).toInt < 0) := by decide

theorem witness_NopChangesNothing :
    (0x00000100 : Cmd).extractLsb' 0 8 = 0 ∧ (0x00000100 : Cmd).extractLsb' 8 24 ≠ 0 := by decide

theorem witness_LdcLoadsTheFiveConstants : (4 : BitVec 8).toNat ≤ 4 ∧ 5 ≤ (5 : BitVec 8).toNat := by decide

/-- The patterns of 0, 1, 100 and 2^63 encode those numbers. -/
theorem witness_DoubleToIntegerConversions :
    F64IsNat 0 0 ∧ F64IsNat 0x3FF0000000000000 1 ∧ F64IsNat 0x4059000000000000 100
    ∧ F64IsNat 0x43E0000000000000 (2 ^ 63)
    ∧ F64IsNat (lo ((base 0xC014000000000000 0 0).reg 0) &&& 0x7FFFFFFFFFFFFFFF) 5 :=
  ⟨⟨by decide, .inl (by decide)⟩, ⟨by decide, .inr (by decide +kernel)⟩, ⟨by decide, .inr (by decide +kernel)⟩,
    ⟨by decide, .inr (by decide +kernel)⟩, ⟨by decide, .inr (by decide +kernel)⟩⟩

theorem witness_IntegerToDoubleConversions : (zeroWord : Word).toNat = 0
    ∧ (0 < sMinWord.toNat ∧ AtMost53Bits sMinWord.toNat) ∧ AtMost53Bits (2 ^ 53 - 1) :=
  ⟨by decide, ⟨by decide, 1, 127, by decide, by decide⟩, 2 ^ 53 - 1, 0, by norm_num, by norm_num⟩

/-- An unsigned value, and a negative one. -/
theorem witness_FloatRoundTripIsExact :
    (((base (2 ^ 63) 0 0).reg 0).toNat < 2 ^ 64 ∧ AtMost53Bits ((base (2 ^ 63) 0 0).reg 0).toNat)
    ∧ (((base (-5) 0 0).reg 0).toInt.natAbs < 2 ^ 64
      ∧ AtMost53Bits ((base (-5) 0 0).reg 0).toInt.natAbs) :=
  ⟨⟨by decide +kernel, 1, 63, by decide +kernel, by decide⟩, by decide +kernel, 5, 0, by decide +kernel, by decide⟩

/-- The last amount in range and the first out of range. -/
theorem witness_ShiftsByRegister :
    ((base 6 127 4).reg 1).toNat < 128 ∧ 128 ≤ ((base 6 128 4).reg 1).toNat := by decide

theorem witness_ShiftPathsAgreeWithTheShifts : (0 < 128) ∧ (63 < 128) ∧ (64 < 128) ∧ (127 < 128) := by decide

theorem witness_SubtractionUndoesAddition : ∃ rd rs2 : Reg, rd ≠ rs2 := ⟨2, 1, by decide⟩

/-- The largest exponent that is not negative, and the smallest that is. -/
theorem witness_PowerWrapsAndRejectsNegativeExponent :
    0 ≤ ((base 6 sMaxWord 4).reg 1).toInt ∧ ((base 6 sMinWord 4).reg 1).toInt < 0 := by decide

theorem witness_SignAgnosticCommandsAreTheSignedOperations : 0 ≤ ((base 6 0 4).reg 1).toInt := by decide

theorem witness_UnsignedQuotientAndRemainder :
    ((base 6 1 4).reg 1).toNat ≠ 0 ∧ ((base 6 0 4).reg 1).toNat = 0 := by decide

theorem witness_UnsignedDivRemPair : (0 : Reg) ≠ 1 ∧ ((base 6 1 4).reg 1).toNat ≠ 0
    ∧ ((base 6 0 4).reg 1).toNat = 0 ∧ (3 : Reg) = 3 := by decide

theorem witness_SignedQuotientAndRemainder :
    ((base sMinWord maxWord 4).reg 1).toNat ≠ 0 ∧ ((base sMinWord 0 4).reg 1).toNat = 0 := by decide

/-- Also the operands that the exact law leaves out, and operands that it takes. -/
theorem witness_SignedDivRemPair : (0 : Reg) ≠ 1 ∧ ((base sMinWord maxWord 4).reg 1).toNat ≠ 0
    ∧ (((base sMinWord maxWord 4).reg 0).toInt = -2 ^ 127 ∧ ((base sMinWord maxWord 4).reg 1).toInt = -1)
    ∧ ¬ (((base sMinWord 1 4).reg 0).toInt = -2 ^ 127 ∧ ((base sMinWord 1 4).reg 1).toInt = -1)
    ∧ ((base sMinWord 0 4).reg 1).toNat = 0 ∧ (3 : Reg) = 3 := by decide

/-- The engine on the add-back example of 44_divide.md R217, on the schoolbook example of R216, and on
a zero divisor. -/
theorem witness_DivisionEngineAgrees :
    divisionEngine 0x00000000800000000000000000000003 0x00000000200000000000000000000001
      = some (3, 0x00000000200000000000000000000000)
    ∧ divisionEngine 0x0123456789ABCDEFFEDCBA9876543210 7 = some (0x00299C335CCF668FFFD663CCA3309970, 0)
    ∧ divisionEngine 5 0 = none := by decide +kernel

theorem witness_DivisionPathsDivide : ((0 : Nat) < 2 ^ 64 ∧ 0 < 1 ∧ 1 < 2 ^ 64)
    ∧ ((2 ^ 128 - 1 : Nat) < 2 ^ 128 ∧ 0 < 2 ^ 32 - 1 ∧ 2 ^ 32 - 1 < 2 ^ 32)
    ∧ (4 ≤ 8 ∧ (2 ^ 256 - 1 : Nat) < 2 ^ (32 * 8) ∧ 2 ^ 32 ≤ 2 ^ 32 ∧ 2 ^ 128 - 1 < 2 ^ 128) := by decide

/-- Operands that are both 0, one of them 0, and neither 0. -/
theorem witness_GreatestCommonDivisor : ((base 0 0 4).reg 1).toNat = 0 ∧ ((base 0 9 4).reg 0).toNat = 0
    ∧ ((base 6 3 4).reg 0).toNat ≠ 0 := by decide

theorem witness_GcdUnitAgrees : gcdUnit 1071 462 = 21 ∧ (1071 : Nat) < 2 ^ 128 ∧ 462 < 2 ^ 128 := by
  decide +kernel

theorem witness_ModularSumDifferenceProduct :
    ((base 6 3 1).reg 2).toNat ≠ 0 ∧ ((base 6 3 0).reg 2).toNat = 0 := by decide

theorem witness_ModularPower :
    ((base 0 0 1).reg 2).toNat ≠ 0 ∧ ((base 0 0 0).reg 2).toNat = 0 := by decide

theorem witness_ModularUnitAgrees : (oneWord : Word).toNat ≠ 0 ∧ (maxWord : Word).toNat ≠ 0 := by decide

theorem witness_ModularPowerUnitAgreesWithAndWithoutMontgomery :
    modPowUnit true 4 13 497 = 445 ∧ modPowUnit false 4 13 497 = 445 ∧ (497 : Word).toNat ≠ 0 := by
  decide +kernel

theorem witness_MontgomeryReductionIsCorrect : (1 : Limb).toNat % 2 = 1
    ∧ ((2 ^ 128 - 1) % 2 = 1 ∧ (2 ^ 128 - 1 : Nat) < 2 ^ 128
      ∧ ((2 ^ 128 - 1) * 2 ^ 128 - 1 : Nat) < (2 ^ 128 - 1) * 2 ^ 128) := by decide

/-- Operand 0 and the largest operand that is not negative, and a negative one. -/
theorem witness_SignedRoots : 0 ≤ ((base 0 3 4).reg 0).toInt ∧ 0 ≤ ((base sMaxWord 3 4).reg 0).toInt
    ∧ ((base maxWord 3 4).reg 0).toInt < 0 := by decide

theorem witness_UnsignedRoots : ((base 0 3 4).reg 0).toNat = 0 ∧ 0 < ((base 1 3 4).reg 0).toNat := by decide

/-- Seeds one above and one below the root 4 of 17, a seed above it, and the operand 0. -/
theorem witness_SquareRootUnitAgrees : (5 ≤ Nat.sqrt 17 + 1 ∧ Nat.sqrt 17 ≤ 5 + 1)
    ∧ (3 ≤ Nat.sqrt 17 + 1 ∧ Nat.sqrt 17 ≤ 3 + 1) ∧ (0 < 17 ∧ Nat.sqrt 17 ≤ 17) := by decide +kernel

theorem witness_CubeRootUnitAgrees : (0 : Nat) < 2 ^ 128 ∧ (2 ^ 128 - 1 : Nat) < 2 ^ 128
    ∧ cbrtUnit 28 5 = 3 ∧ ceilFromFloorCbrt 28 3 = 4 := by
  refine ⟨by decide, by decide, ?_, by decide⟩
  simp [cbrtUnit, cbrtDown, cbrtUp]

end Sys2Proof.Tests
end

section
/-! PROOFS. The family of 10_state.md: what one command can do (`Effect`, from which the frame of every
command follows), the round trip of a command through its word, and the invariant of the fault latch. -/

namespace Sys2Proof.Machine

/-! ## What one command can do -/

/-- Everything that executing the command `i` in state `s` can make of it: the destinations are written
and the latch is kept, or one of the three faults that the hardware raises is latched for the command's
own word, each under its own condition (60_exceptions.md R361, R363, R364). -/
inductive Effect (i : Instr) (s t : State) : Prop
  | writes (frame : SameOutside (destinations i) s t)
  | illegal (malformed : wellFormed i = false) (latch : Latches .illegalCommand (encode i) s t)
  | divideByZero (r : Reg) (wf : wellFormed i = true) (divisor : divisorReg i = some r)
      (zero : (s.reg r).toNat = 0) (latch : Latches .divideByZero (encode i) s t)
  | domainError (r : Reg) (wf : wellFormed i = true) (domain : domainReg i = some r)
      (negative : (s.reg r).toInt < 0) (latch : Latches .domainError (encode i) s t)

section Shapes
variable {i : Instr} {rd rd2 rs1 rs2 rs3 r : Reg} {s t : State}

theorem Effect.of_unaryOp {f : Word → Word} (hd : destinations i = [rd]) :
    Effect i s (unaryOp f rd rs1 s) :=
  .writes (hd ▸ (unaryOp_spec f rd rs1 s).2)

theorem Effect.of_binaryOp {f : Word → Word → Word} (hd : destinations i = [rd]) :
    Effect i s (binaryOp f rd rs1 rs2 s) :=
  .writes (hd ▸ (binaryOp_spec f rd rs1 rs2 s).2)

theorem Effect.of_ternaryOp {f : Word → Word → Word → Word} (hd : destinations i = [rd]) :
    Effect i s (ternaryOp f rd rs1 rs2 rs3 s) :=
  .writes (hd ▸ (ternaryOp_spec f rd rs1 rs2 rs3 s).2)

theorem Effect.of_pairOp {f g : Word → Word → Word} (hd : destinations i = [rd, rd2]) (h : rd ≠ rd2) :
    Effect i s (pairOp f g rd rd2 rs1 rs2 s) :=
  .writes (hd ▸ (pairOp_spec f g rd rd2 rs1 rs2 s h).2.2)

/-- A command that tests its divisor or modulus before it runs. -/
theorem Effect.of_divisor (wf : wellFormed i = true) (hr : divisorReg i = some r) (ht : Effect i s t) :
    Effect i s (if isZero (s.reg r) then s.raise .divideByZero (encode i) else t) := by
  split
  next hz => exact .divideByZero r wf hr ((isZero_iff _).1 hz) (s.raise_latches ..)
  next => exact ht

/-- A command that tests the sign of its operand or exponent before it runs. -/
theorem Effect.of_domain (wf : wellFormed i = true) (hr : domainReg i = some r) (ht : Effect i s t) :
    Effect i s (if isNeg (s.reg r) then s.raise .domainError (encode i) else t) := by
  split
  next hn => exact .domainError r wf hr ((isNeg_iff_toInt _).1 hn) (s.raise_latches ..)
  next => exact ht

/-- A command that tests its two destinations before it runs. -/
theorem Effect.of_destinations (hw : wellFormed i = decide (rd ≠ rd2)) (ht : rd ≠ rd2 → Effect i s t) :
    Effect i s (if rd = rd2 then s.raise .illegalCommand (encode i) else t) := by
  split
  next h => exact .illegal (by simpa [h] using hw) (s.raise_latches ..)
  next h => exact ht h

end Shapes

/-- A selector that names no constant is one that no legal word carries. -/
theorem wellFormed_ldc_of_constant_eq_none {k : BitVec 8} (rd : Reg) (h : constant k = none) :
    wellFormed (.ldc rd k) = false := by
  have hk : ¬ k.toNat ≤ 4 := by
    unfold constant at h
    split at h <;> simp_all
    omega
  simpa [wellFormed] using hk

/-- `LDC` writes its register, or the selector names no constant. -/
theorem execLdc_effect (rd : Reg) (k : BitVec 8) (s : State) :
    ∃ t, execLdc rd k s = .next t ∧ Effect (.ldc rd k) s t := by
  refine ⟨_, rfl, ?_⟩
  split
  next => exact .writes (s.setReg_sameOutside ..)
  next h => exact .illegal (wellFormed_ldc_of_constant_eq_none rd h) (s.raise_latches ..)

/-- Every command answers a next state, and that state is one of its effects. The arms are grouped by
the shape of the command. -/
theorem exec_effect (i : Instr) (s : State) : ∃ t, exec i s = .next t ∧ Effect i s t := by
  cases i with
  | nop => exact ⟨s, rfl, .writes (.refl _ s)⟩
  | ldc rd k => exact execLdc_effect rd k s
  | mov | zext8 | zext16 | zext32 | zext64 | sext8 | sext16 | sext32 | sext64 | cvtUF64 | cvtF64U
  | cvtSF64 | cvtF64S | not | shli | shri | sari | neg | inc | dec | sqr | cube | sAbs | uFsqrt
  | uCsqrt | uFcbrt | uCcbrt => exact ⟨_, rfl, .of_unaryOp rfl⟩
  | and | or | xor | shl | shr | sar | eq | ne | uLt | uLe | uGt | uGe | uCmp | uMin | uMax | sLt | sLe
  | sGt | sGe | sCmp | sMin | sMax | add | sub | mul | mul64 | sMul | uGcd =>
    exact ⟨_, rfl, .of_binaryOp rfl⟩
  | sFsqrt | sCsqrt | sFcbrt | sCcbrt => exact ⟨_, rfl, .of_domain rfl rfl (.of_unaryOp rfl)⟩
  | pow => exact ⟨_, rfl, .of_domain rfl rfl (.of_binaryOp rfl)⟩
  | uDiv | uRem | sDiv | sRem => exact ⟨_, rfl, .of_divisor rfl rfl (.of_binaryOp rfl)⟩
  | uModAdd | uModSub | uModMul | uModPow =>
    exact ⟨_, rfl, .of_divisor rfl rfl (.of_ternaryOp rfl)⟩
  | uDivRem | sDivRem =>
    exact ⟨_, rfl, .of_destinations rfl fun h => .of_divisor (decide_eq_true h) rfl (.of_pairOp rfl h)⟩

/-- Settles O20, by forgetting which fault an effect latches and why. -/
theorem commandsChangeOnlyTheirDestinations : Obligations.CommandsChangeOnlyTheirDestinations := by
  intro i s
  obtain ⟨t, ht, he⟩ := exec_effect i s
  refine ⟨t, ht, ?_⟩
  cases he with
  | writes frame => exact .inl frame
  | illegal _ latch | divideByZero _ _ _ _ latch | domainError _ _ _ _ latch => exact .inr ⟨_, latch⟩

/-! ## The round trip of a command through its word -/

/-- A well-formed command is what its word decodes to (30_encoding.md R61 to R70): the opcode field
selects the row of the map, and the round trip of the row's format gives the operands back. -/
theorem decode_encode (i : Instr) (h : wellFormed i = true) : decode (encode i) = .ok i := by
  have hop : opcodeField (encode i) = opcode i := by
    cases i <;> exact opcodeField_packFields ..
  rw [decode, hop]
  cases i with
  | nop => exact decodeN_encodeN ..
  | ldc rd k => exact decodeK_encodeK _ _ _ _ (of_decide_eq_true h)
  | mov | zext8 | zext16 | zext32 | zext64 | sext8 | sext16 | sext32 | sext64 | cvtUF64 | cvtF64U
  | cvtSF64 | cvtF64S | not | neg | inc | dec | sqr | cube | sAbs | sFsqrt | sCsqrt | sFcbrt | sCcbrt
  | uFsqrt | uCsqrt | uFcbrt | uCcbrt => exact decodeR1_encodeR1 ..
  | and | or | xor | shl | shr | sar | eq | ne | uLt | uLe | uGt | uGe | uCmp | uMin | uMax | sLt | sLe
  | sGt | sGe | sCmp | sMin | sMax | add | sub | mul | mul64 | pow | uDiv | uRem | sMul | sDiv | sRem
  | uGcd => exact decodeR2_encodeR2 ..
  | shli | shri | sari => exact decodeRI_encodeRI ..
  | uModAdd | uModSub | uModMul | uModPow => exact decodeR3_encodeR3 ..
  | uDivRem | sDivRem => exact decodeR2D_encodeR2D _ _ _ _ _ _ (of_decide_eq_true h)

/-! ## The invariant of the fault latch -/

section Latch
variable {i : Instr} {c : Cmd} {s t : State}

/-- The invariant speaks of the two fields of the latch only. -/
theorem LatchInv.congr (h : LatchInv s) (hcode : t.fcode = s.fcode) (hcmd : t.fcmd = s.fcmd) :
    LatchInv t := by
  unfold LatchInv
  rwa [hcode, hcmd]

theorem LatchInv.of_clear (hcode : t.fcode = 0) (hcmd : t.fcmd = 0) : LatchInv t := by
  simp [LatchInv, hcode, hcmd]

theorem LatchInv.of_illegalCommand (h : Latches .illegalCommand c s t) : LatchInv t := by
  have hcode : t.fcode = 1 := h.1
  simp [LatchInv, hcode]

theorem LatchInv.of_divideByZero (h : Latches .divideByZero c s t) (hdec : decode c = .ok i)
    (hr : divisorReg i ≠ none) : LatchInv t := by
  obtain ⟨hcode, hcmd, -⟩ := h
  have hword : ∃ j, decode t.fcmd = .ok j ∧ divisorReg j ≠ none := ⟨i, hcmd ▸ hdec, hr⟩
  simp [LatchInv, hcode, FaultKind.code, hword]

theorem LatchInv.of_domainError (h : Latches .domainError c s t) (hdec : decode c = .ok i)
    (hr : domainReg i ≠ none) : LatchInv t := by
  obtain ⟨hcode, hcmd, -⟩ := h
  have hword : ∃ j, decode t.fcmd = .ok j ∧ domainReg j ≠ none := ⟨i, hcmd ▸ hdec, hr⟩
  simp [LatchInv, hcode, FaultKind.code, hword]

/-- Each effect of a command keeps the invariant: an operand fault latches a well-formed command's word,
which decodes to that command. -/
theorem Effect.keeps_latchInv (he : Effect i s t) (h : LatchInv s) : LatchInv t := by
  cases he with
  | writes frame =>
    obtain ⟨-, hcode, hcmd, -⟩ := frame
    exact h.congr hcode hcmd
  | illegal _ latch => exact .of_illegalCommand latch
  | divideByZero r wf divisor _ latch =>
    exact .of_divideByZero latch (decode_encode i wf) (by simp [divisor])
  | domainError r wf domain _ latch =>
    exact .of_domainError latch (decode_encode i wf) (by simp [domain])

theorem exec_keeps_latchInv (h : LatchInv s) (ht : exec i s = .next t) : LatchInv t := by
  obtain ⟨t', ht', he⟩ := exec_effect i s
  obtain rfl : t' = t := by simpa [ht'] using ht
  exact he.keeps_latchInv h

end Latch

/-- Settles O15, by the kinds of transaction: a reset and a `STATUS` write clear the latch, a `CMD`
write latches what the decoder or the command raises, and every other transaction leaves it alone. -/
theorem everyStepKeepsTheLatchInvariant : Obligations.EveryStepKeepsTheLatchInvariant := by
  intro s t h ht
  have next_eq {u : State} (hu : step s = .next u) : u = t := by simpa [hu] using ht
  rcases step_cases s with ⟨-, idle⟩ | ⟨rest, -, reset⟩ | ⟨a, rest, -, read⟩ | ⟨a, d, rest, -, write⟩
  · exact next_eq idle ▸ h
  · exact next_eq reset ▸ .of_clear rfl rfl
  · exact next_eq read ▸ h.congr rfl rfl
  · rcases write with ⟨-, limb⟩ | ⟨-, -, dropped⟩ | ⟨-, -, i, -, runs⟩ | ⟨-, -, -, rejected⟩
      | ⟨-, status⟩ | ⟨-, reserved⟩
    · exact next_eq limb ▸ h.congr rfl rfl
    · exact next_eq dropped ▸ h.congr rfl rfl
    · exact exec_keeps_latchInv (s := { s with pending := rest }) (h.congr rfl rfl) (runs ▸ ht)
    · exact next_eq rejected ▸ .of_illegalCommand (State.raise_latches ..)
    · exact next_eq status ▸ .of_clear rfl rfl
    · exact next_eq reserved ▸ h.congr rfl rfl

end Sys2Proof.Machine
end

section
/-! PROOFS. The family of 20_memory.md: the data that each port address reads as, a `CMD` write by what
its data decodes to, and the register that `WRQ` and `RDQ` write and read through the limb addresses. -/

namespace Sys2Proof.Machine

/-! ## Limb addresses as numbers -/

/-- Bits placed above `n` others count for `2 ^ n` each. -/
theorem append_toNat {m n : Nat} (x : BitVec m) (y : BitVec n) :
    (x ++ y).toNat = 2 ^ n * x.toNat + y.toNat := by
  rw [BitVec.toNat_append, Nat.shiftLeft_eq, Nat.mul_comm, Nat.two_pow_add_eq_or_of_lt y.isLt]

theorem loAddr_toNat (r : Reg) : (loAddr r).toNat = 2 * r.toNat := by
  rw [loAddr, append_toNat, append_toNat]
  simp

theorem hiAddr_toNat (r : Reg) : (hiAddr r).toNat = 2 * r.toNat + 1 := by
  rw [hiAddr, append_toNat, append_toNat]
  simp

theorem loAddr_le (r : Reg) : (loAddr r).toNat ≤ 0x1F := by
  rw [loAddr_toNat]; omega

theorem hiAddr_le (r : Reg) : (hiAddr r).toNat ≤ 0x1F := by
  rw [hiAddr_toNat]; omega

/-- The bit that chooses the limb is the parity of the address. -/
theorem limbBit_eq (a : PortAddr) : a.getLsbD 0 = decide (a.toNat % 2 = 1) :=
  a.toNat.testBit_zero

theorem limbBit_loAddr (r : Reg) : (loAddr r).getLsbD 0 = false := by
  rw [limbBit_eq, loAddr_toNat]
  simp

theorem limbBit_hiAddr (r : Reg) : (hiAddr r).getLsbD 0 = true := by
  rw [limbBit_eq, hiAddr_toNat, decide_eq_true_eq]
  omega

@[simp] theorem limbReg_loAddr (r : Reg) : limbReg (loAddr r) = r := by
  simp [limbReg_eq, loAddr_toNat]

@[simp] theorem limbReg_hiAddr (r : Reg) : limbReg (hiAddr r) = r := by
  have half : (2 * r.toNat + 1) / 2 = r.toNat := by omega
  simp [limbReg_eq, hiAddr_toNat, half]

/-! ## The data of a read, by its address -/

theorem lo_eq_ofNat (v : Word) : lo v = BitVec.ofNat 64 (v.toNat % 2 ^ 64) := by
  rw [← uVal, ← lo_toNat, BitVec.ofNat_toNat, BitVec.setWidth_eq]

theorem hi_eq_ofNat (v : Word) : hi v = BitVec.ofNat 64 (v.toNat / 2 ^ 64) := by
  rw [← uVal, ← hi_toNat, BitVec.ofNat_toNat, BitVec.setWidth_eq]

/-- The limb that an address names, a remainder or a quotient of the register's number. -/
theorem State.readLimb_eq_ofNat (s : State) (a : PortAddr) :
    s.readLimb a = BitVec.ofNat 64
      (if a.toNat % 2 = 0 then (s.reg (BitVec.ofNat 4 (a.toNat / 2))).toNat % 2 ^ 64
        else (s.reg (BitVec.ofNat 4 (a.toNat / 2))).toNat / 2 ^ 64) := by
  rw [State.readLimb, limbBit_eq, limbReg_eq]
  rcases Nat.mod_two_eq_zero_or_one a.toNat with even | odd
  · simp [even, lo_eq_ofNat]
  · simp [odd, hi_eq_ofNat]

/-- `STATUS` as a number: its reserved bits are zero. -/
theorem State.status_eq_ofNat (s : State) :
    s.status = BitVec.ofNat 64 (s.fcmd.toNat * 2 ^ 32 + s.fcode.toNat) := by
  have number : s.status.toNat = s.fcmd.toNat * 2 ^ 32 + s.fcode.toNat := by
    rw [State.status, append_toNat, append_toNat]
    simp [Nat.mul_comm]
  rw [← number, BitVec.ofNat_toNat, BitVec.setWidth_eq]

section PortData
variable {a : PortAddr}

theorem State.portData_limb (s : State) (h : a.toNat ≤ 0x1F) : s.portData a = s.readLimb a :=
  if_pos h

theorem State.portData_status (s : State) : s.portData 0x21 = s.status := rfl

/-- `CMD` and the reserved addresses read as zero. -/
theorem State.portData_eq_zero (s : State) (h : 0x1F < a.toNat) (hs : a ≠ 0x21) : s.portData a = 0 := by
  rw [State.portData, if_neg (by omega), if_neg hs]

end PortData

/-! ## One transaction -/

/-- Settles O8: the address as a number names the register and the limb of the limb write. -/
theorem limbWriteReplacesOneLimb : Obligations.LimbWriteReplacesOneLimb := by
  intro s a d rest ha hp
  obtain ⟨low, high, frame⟩ := State.writeLimb_spec { s with pending := rest } a d
  rw [limbReg_eq] at low high frame
  rw [limbBit_eq] at low high
  exact ⟨_, step_limb_write hp ha, fun even => low (by simp [even]), fun odd => high (by simp [odd]),
    frame⟩

/-- Settles O9: a limb address reads as its limb, here as a number. -/
theorem limbReadReturnsTheLimb : Obligations.LimbReadReturnsTheLimb := by
  intro s a rest ha hp
  rw [step_read hp, s.portData_limb ha, s.readLimb_eq_ofNat]

/-- Settles O10: address 0x21 reads as `STATUS`, here as a number, and a write to it clears the latch. -/
theorem statusReadsWholeAndClearsOnWrite : Obligations.StatusReadsWholeAndClearsOnWrite := by
  intro s d rest
  refine ⟨fun read => ?_, fun write => step_status_write write⟩
  rw [step_read read, s.portData_status, s.status_eq_ofNat]

/-- Settles O11: a reserved address is above those of the limbs and is not `STATUS`. -/
theorem reservedAddressesReadZeroAndIgnoreWrites :
    Obligations.ReservedAddressesReadZeroAndIgnoreWrites := by
  intro s a d rest ha
  refine ⟨fun read => ?_, fun write => step_reserved_write write ha⟩
  have not_status : a ≠ 0x21 := by
    rintro rfl
    exact absurd ha (by decide)
  rw [step_read read, s.portData_eq_zero (by omega) not_status]

section CmdWrite
variable {s : State} {rest : List Transaction} {d : Limb}

/-- Data that decodes to nothing latches IllegalCommand for its lower half (20_memory.md R44). -/
theorem step_cmd_latches_illegal (h : s.pending = .write 0x20 d :: rest) (hf : s.fcode = 0)
    (hd : ∃ e, decodeData d = .error e) : ∃ t, step s = .next t
      ∧ Latches .illegalCommand (d.extractLsb' 0 32) { s with pending := rest } t := by
  obtain ⟨e, he⟩ := hd
  exact ⟨_, step_cmd_error h hf he, State.raise_latches ..⟩

/-- The encoding of a well-formed command, written to `CMD`, runs the command (30_encoding.md R60). -/
theorem step_cmd_encode {i : Instr} (h : s.pending = .write 0x20 (0#32 ++ encode i) :: rest)
    (hf : s.fcode = 0) (wf : wellFormed i = true) : step s = exec i { s with pending := rest } :=
  step_cmd_ok h hf ((decodeData_zero_append _).trans (decode_encode i wf))

end CmdWrite

/-- Settles O6, by the latch, then the upper half of the data, then what its lower half decodes to. -/
theorem cmdWriteDecodesAndExecutes : Obligations.CmdWriteDecodesAndExecutes := by
  intro s d rest
  refine ⟨fun write => ⟨fun latched => step_cmd_latched write latched, fun clear upper => ?_,
    fun clear upper i legal => ?_, fun clear upper e illegal => ?_⟩, fun read => ?_⟩
  · exact step_cmd_latches_illegal write clear (decodeData_of_ge d upper)
  · exact step_cmd_ok write clear ((decodeData_of_lt d upper).trans legal)
  · exact step_cmd_latches_illegal write clear ⟨e, (decodeData_of_lt d upper).trans illegal⟩
  · rw [step_read read, s.portData_eq_zero (by decide) (by decide)]

/-- The data of `withFetchWord` for a whole command word is the word with a zero upper half. -/
theorem withFetchWord_pending (s : State) (c : Cmd) :
    (s.withFetchWord 32 c.toNat).pending = .write 0x20 (0#32 ++ c) :: s.pending := by
  have data : BitVec.ofNat 64 (c.toNat % 2 ^ 32) = 0#32 ++ c := by
    apply BitVec.eq_of_toNat_eq
    rw [append_toNat, Nat.mod_eq_of_lt c.isLt, BitVec.toNat_ofNat, Nat.mod_eq_of_lt (by omega)]
    simp
  rw [State.withFetchWord, data]
  rfl

/-- Settles O5: the encoding decodes back, and `withFetchWord` offers it with the latch clear. -/
theorem stepRunsTheDecodedCommand : Obligations.StepRunsTheDecodedCommand := by
  intro s i rest wf
  exact ⟨fun write clear => step_cmd_encode write clear wf,
    step_cmd_encode (withFetchWord_pending s (encode i)) rfl wf⟩

/-! ## A register through its two limbs -/

section Register
variable {s t : State} {r : Reg} {v : Word} {rest : List Transaction}

/-- Of two writes of one register the second stays. -/
theorem State.setReg_setReg (s : State) (r : Reg) (v w : Word) :
    (s.setReg r v).setReg r w = s.setReg r w := by
  simp [State.setReg]

theorem State.writeLimb_loAddr (s : State) (r : Reg) (d : Limb) :
    s.writeLimb (loAddr r) d = s.setReg r (ofLimbs (hi (s.reg r)) d) := by
  rw [State.writeLimb, limbBit_loAddr, limbReg_loAddr]
  rfl

theorem State.writeLimb_hiAddr (s : State) (r : Reg) (d : Limb) :
    s.writeLimb (hiAddr r) d = s.setReg r (ofLimbs d (lo (s.reg r))) := by
  rw [State.writeLimb, limbBit_hiAddr, limbReg_hiAddr]
  rfl

/-- Writing both limbs of a value, low first, is writing the value. -/
theorem State.writeLimb_writeLimb (s : State) (r : Reg) (v : Word) :
    (s.writeLimb (loAddr r) (lo v)).writeLimb (hiAddr r) (hi v) = s.setReg r v := by
  simp [State.writeLimb_loAddr, State.writeLimb_hiAddr, State.setReg_setReg]

theorem State.portData_loAddr (s : State) (r : Reg) : s.portData (loAddr r) = lo (s.reg r) := by
  rw [s.portData_limb (loAddr_le r), State.readLimb, limbBit_loAddr, limbReg_loAddr]
  rfl

theorem State.portData_hiAddr (s : State) (r : Reg) : s.portData (hiAddr r) = hi (s.reg r) := by
  rw [s.portData_limb (hiAddr_le r), State.readLimb, limbBit_hiAddr, limbReg_hiAddr]
  rfl

/-- A run goes on from where its first step leads. -/
theorem run_succ_of_step (k : Nat) (h : step s = .next t) :
    Host.Core.run core (k + 1) s = Host.Core.run core k t := by
  have first : core.step s = .next t := h
  simp only [Host.Core.run, first]

/-- The two transactions of `WRQ` are one write of the register (30_encoding.md R74). -/
theorem run_wrq (k : Nat) (h : s.pending = lineTransactions (.wrq r v) ++ rest) :
    Host.Core.run core (k + 2) s
      = Host.Core.run core k (({ s with pending := rest } : State).setReg r v) := by
  have pending : s.pending = .write (loAddr r) (lo v) :: .write (hiAddr r) (hi v) :: rest := h
  have low := step_limb_write pending (loAddr_le r)
  have high := step_limb_write (rest := rest) rfl (hiAddr_le r) (d := hi v)
    (s := State.writeLimb { s with pending := .write (hiAddr r) (hi v) :: rest } (loAddr r) (lo v))
  rw [run_succ_of_step (k + 1) low, run_succ_of_step k high, ← State.writeLimb_writeLimb]
  rfl

/-- The two transactions of `RDQ` return the register, low limb first (30_encoding.md R74). -/
theorem run_rdq (k : Nat) (h : s.pending = lineTransactions (.rdq r) ++ rest) :
    Host.Core.run core (k + 2) s = Host.Core.run core k
      ({ s with pending := rest, returned := s.returned ++ [lo (s.reg r), hi (s.reg r)] } : State) := by
  have pending : s.pending = .read (loAddr r) :: .read (hiAddr r) :: rest := h
  have low := step_read pending
  have high := step_read (rest := rest) (a := hiAddr r) rfl
    (s := { s with
      pending := .read (hiAddr r) :: rest
      returned := s.returned ++ [s.portData (loAddr r)] })
  rw [run_succ_of_step (k + 1) low, run_succ_of_step k high, s.portData_loAddr, State.portData_hiAddr,
    List.append_assoc]
  rfl

end Register

/-- Settles O12: after `WRQ` the register holds the value, and `RDQ` returns what it holds. -/
theorem writtenRegisterReadsBack : Obligations.WrittenRegisterReadsBack := by
  intro s r v rest hp
  rw [List.append_assoc] at hp
  refine ⟨_, (run_wrq 2 hp).trans (run_rdq (rest := rest) 0 rfl), ?_, ?_, fun r' other => ?_,
    rfl, rfl, rfl⟩
  · exact State.reg_setReg_same ..
  · rw [State.reg_setReg_same, lo_eq_ofNat, hi_eq_ofNat]
    rfl
  · exact State.reg_setReg_other _ _ _ _ other

end Sys2Proof.Machine
end

section
/-! PROOFS. The family of 30_encoding.md: what the decoder makes of each word, format by format. A word
is illegal by R71 and rejected, or it is the encoding of the command that it decodes to. -/

namespace Sys2Proof.Machine

/-- Settles O1: the round trip of a command through its word. -/
theorem decodeOfEncodeIsIdentity : Obligations.DecodeOfEncodeIsIdentity := decode_encode

/-! ## The bits a format leaves unused, as a mask and as a field -/

/-- The mask of the `n` bits from bit `k` up. -/
def bitRun (k n : Nat) : Cmd := (BitVec.allOnes n).zeroExtend 32 <<< k

theorem getLsbD_bitRun (k n i : Nat) (hi : i < 32) :
    (bitRun k n).getLsbD i = (!decide (i < k) && decide (i - k < n)) := by
  simp [bitRun, hi]

/-- A word is clear under the mask of some bits exactly when the field of those bits is zero. -/
theorem and_bitRun_eq_zero_iff (c : Cmd) (k n : Nat) (h : k + n ≤ 32) :
    c &&& bitRun k n = 0#32 ↔ c.extractLsb' k n = 0#n := by
  constructor
  · intro masked
    apply BitVec.eq_of_getLsbD_eq
    intro i hi
    have inWord : k + i < 32 := by omega
    have bit : (c &&& bitRun k n).getLsbD (k + i) = false := by simp [masked]
    rw [BitVec.getLsbD_and, getLsbD_bitRun k n _ inWord] at bit
    simpa [hi] using bit
  · intro field
    apply BitVec.eq_of_getLsbD_eq
    intro i hi
    rw [BitVec.getLsbD_and, getLsbD_bitRun k n i hi]
    by_cases inRun : k ≤ i ∧ i - k < n
    · have bit := congrArg (·.getLsbD (i - k)) field
      have place : k + (i - k) = i := by omega
      have clear : c.getLsbD i = false := by simpa [inRun, place] using bit
      simp [clear]
    · have outside : (!decide (i < k) && decide (i - k < n)) = false := by simpa using inRun
      simp [outside]

theorem zeroBitsN_iff (c : Cmd) : c &&& Format.n.zeroBits = 0#32 ↔ c.extractLsb' 8 24 = 0#24 :=
  and_bitRun_eq_zero_iff c 8 24 (by decide)

theorem zeroBitsK_iff (c : Cmd) : c &&& Format.k.zeroBits = 0#32 ↔ c.extractLsb' 12 12 = 0#12 :=
  and_bitRun_eq_zero_iff c 12 12 (by decide)

theorem zeroBitsR1_iff (c : Cmd) : c &&& Format.r1.zeroBits = 0#32 ↔ c.extractLsb' 16 16 = 0#16 :=
  and_bitRun_eq_zero_iff c 16 16 (by decide)

theorem zeroBitsR2_iff (c : Cmd) : c &&& Format.r2.zeroBits = 0#32 ↔ c.extractLsb' 20 12 = 0#12 :=
  and_bitRun_eq_zero_iff c 20 12 (by decide)

theorem zeroBitsR3_iff (c : Cmd) : c &&& Format.r3.zeroBits = 0#32 ↔ imm8Field c = 0#8 :=
  and_bitRun_eq_zero_iff c 24 8 (by decide)

theorem zeroBitsR2D_iff (c : Cmd) : c &&& Format.r2d.zeroBits = 0#32 ↔ imm8Field c = 0#8 :=
  and_bitRun_eq_zero_iff c 24 8 (by decide)

theorem zeroBitsRI_iff (c : Cmd) : c &&& Format.ri.zeroBits = 0#32 ↔
    c.extractLsb' 16 8 = 0#8 ∧ c.extractLsb' 31 1 = 0#1 := by
  have mask : Format.ri.zeroBits = bitRun 16 8 ||| bitRun 31 1 := by decide
  rw [mask, BitVec.and_or_distrib_left, BitVec.or_eq_zero_iff,
    and_bitRun_eq_zero_iff c 16 8 (by decide), and_bitRun_eq_zero_iff c 31 1 (by decide)]

/-! ## A word with its unused bits clear is the one its format packs from its fields -/

section Packed
variable {c : Cmd}

theorem encodeN_fields (h : c.extractLsb' 8 24 = 0#24) : encodeN (opcodeField c) = c := by
  obtain ⟨rd, rs1, rs2, rs3, imm8⟩ := (unusedN_iff c).1 h
  simpa [encodeN, rd, rs1, rs2, rs3, imm8] using packFields_fields c

theorem encodeK_fields (h : c.extractLsb' 12 12 = 0#12) :
    encodeK (opcodeField c) (rdField c) (imm8Field c) = c := by
  obtain ⟨rs1, rs2, rs3⟩ := (unusedK_iff c).1 h
  simpa [encodeK, rs1, rs2, rs3] using packFields_fields c

theorem encodeR1_fields (h : c.extractLsb' 16 16 = 0#16) :
    encodeR1 (opcodeField c) (rdField c) (rs1Field c) = c := by
  obtain ⟨rs2, rs3, imm8⟩ := (unusedR1_iff c).1 h
  simpa [encodeR1, rs2, rs3, imm8] using packFields_fields c

theorem encodeR2_fields (h : c.extractLsb' 20 12 = 0#12) :
    encodeR2 (opcodeField c) (rdField c) (rs1Field c) (rs2Field c) = c := by
  obtain ⟨rs3, imm8⟩ := (unusedR2_iff c).1 h
  simpa [encodeR2, rs3, imm8] using packFields_fields c

theorem encodeR3_fields (h : imm8Field c = 0#8) :
    encodeR3 (opcodeField c) (rdField c) (rs1Field c) (rs2Field c) (rs3Field c) = c := by
  simpa [encodeR3, h] using packFields_fields c

theorem encodeRI_fields (h : c.extractLsb' 16 8 = 0#8 ∧ c.extractLsb' 31 1 = 0#1) :
    encodeRI (opcodeField c) (rdField c) (rs1Field c) (shamtField c) = c := by
  obtain ⟨rs2, rs3, imm8⟩ := (unusedRI_iff c).1 h
  simpa [encodeRI, rs2, rs3, imm8] using packFields_fields c

theorem encodeR2D_fields (h : imm8Field c = 0#8) :
    encodeR2D (opcodeField c) (rdField c) (rs3Field c) (rs1Field c) (rs2Field c) = c := by
  simpa [encodeR2D, h] using packFields_fields c

end Packed

/-! ## The opcode map -/

/-- A format is found at the row of its opcode. -/
theorem row_of_formatOf {op : BitVec 8} {f : Format} (h : formatOf op = some f) :
    ∃ row ∈ opcodeMap, row.opcode = op ∧ row.format = f := by
  obtain ⟨row, found, format⟩ := Option.map_eq_some_iff.1 h
  exact ⟨row, List.mem_of_find?_eq_some found, by simpa using List.find?_some found, format⟩

/-- `LDC` is the one command of format K. -/
theorem formatOf_eq_k_iff (op : BitVec 8) : formatOf op = some .k ↔ op = 0x10 := by
  have only : ∀ row ∈ opcodeMap, row.format = .k → row.opcode = 0x10 := by decide
  constructor
  · intro h
    obtain ⟨row, mem, rfl, format⟩ := row_of_formatOf h
    exact only row mem format
  · rintro rfl
    rfl

/-- A word of a row: its opcode, with different destinations and every other field zero. -/
def OpcodeRow.word (row : OpcodeRow) : Cmd :=
  packFields 0 (if row.format = .r2d then 1 else 0) 0 0 0 row.opcode

/-- Every row of the map is the opcode of a command: the one that the row's word decodes to. -/
theorem exists_opcode_of_row : ∀ row ∈ opcodeMap, ∃ i, opcode i = row.opcode := by
  have decodes : ∀ row ∈ opcodeMap, (decode row.word).toOption.map opcode = some row.opcode := by
    decide
  intro row mem
  obtain ⟨i, -, hi⟩ := Option.map_eq_some_iff.1 (decodes row mem)
  exact ⟨i, hi⟩

/-- A word whose opcode is not in the map is rejected: every arm of the decoder but the last is a row. -/
theorem decode_of_formatOf_eq_none {c : Cmd} (h : formatOf (opcodeField c) = none) :
    decode c = .error (.unknownOpcode (opcodeField c)) := by
  have number : formatOf (BitVec.ofNat 8 (opcodeField c).toNat) = none := by simpa using h
  unfold decode
  split
  case h_73 => rfl
  all_goals
    next hop =>
      rw [hop] at number
      cases number

/-- The four cases of R71 for a word whose opcode is in the map, by its format. -/
theorem illegalWord_iff {c : Cmd} {f : Format} (hf : formatOf (opcodeField c) = some f) :
    IllegalWord c ↔ c &&& f.zeroBits ≠ 0#32 ∨ (f = .k ∧ 5 ≤ (imm8Field c).toNat)
      ∨ (f = .r2d ∧ rdField c = rs3Field c) := by
  have known : formatOf (opcodeField c) ≠ none := by simp [hf]
  have format : (∃ g, formatOf (opcodeField c) = some g ∧ c &&& g.zeroBits ≠ 0#32)
      ↔ c &&& f.zeroBits ≠ 0#32 := by simp [hf]
  have selector : opcodeField c = 0x10 ↔ f = .k := by rw [← formatOf_eq_k_iff, hf, Option.some_inj]
  have pair : formatOf (opcodeField c) = some .r2d ↔ f = .r2d := by rw [hf, Option.some_inj]
  rw [← format, ← selector, ← pair]
  exact or_iff_right known

/-! ## What the decoder makes of a word -/

/-- What a decoder of the word `c` may answer: an error for a word that R71 calls illegal, and for every
other word a well-formed command whose encoding is that very word (30_encoding.md R71, R72). -/
inductive Verdict (c : Cmd) : Except DecodeError Instr → Prop
  | rejects (e : DecodeError) (illegal : IllegalWord c) : Verdict c (.error e)
  | accepts (i : Instr) (legal : ¬ IllegalWord c) (wf : wellFormed i = true) (word : encode i = c) :
      Verdict c (.ok i)

section Formats
variable {c : Cmd} {f : Format} {op : BitVec 8}

/-- The test of the unused bits settles a word that is no `LDC` with a bad selector and no `DIVREM` with
equal destinations. -/
theorem Verdict.of_whenUnusedZero {b : Bool} {i : Instr} (hf : formatOf (opcodeField c) = some f)
    (selector : f = .k → (imm8Field c).toNat ≤ 4) (pair : f = .r2d → rdField c ≠ rs3Field c)
    (bits : b = true ↔ c &&& f.zeroBits = 0#32) (wf : wellFormed i = true)
    (word : b = true → encode i = c) : Verdict c (whenUnusedZero c b i) := by
  cases b with
  | false => exact .rejects _ ((illegalWord_iff hf).2 (.inl fun zero => by simpa using bits.2 zero))
  | true =>
    refine .accepts i (fun illegal => ?_) wf (word rfl)
    rcases (illegalWord_iff hf).1 illegal with set | ⟨k, large⟩ | ⟨r2d, equal⟩
    · exact set (bits.1 rfl)
    · have small := selector k
      omega
    · exact pair r2d equal

/-! Each format's decoder, for a constructor `mk` whose commands are the words of that format. -/

theorem Verdict.of_decodeN {i : Instr} (hop : opcodeField c = op) (hf : formatOf op = some .n)
    (wf : wellFormed i = true) (word : encode i = encodeN op) : Verdict c (decodeN c i) := by
  subst hop
  refine .of_whenUnusedZero hf nofun nofun (by simp [zeroBitsN_iff]) wf fun zero => ?_
  exact word.trans (encodeN_fields (by simpa using zero))

theorem Verdict.of_decodeK {mk : Reg → BitVec 8 → Instr} (hop : opcodeField c = op)
    (hf : formatOf op = some .k) (wf : ∀ rd k, wellFormed (mk rd k) = decide (k.toNat ≤ 4))
    (word : ∀ rd k, encode (mk rd k) = encodeK op rd k) : Verdict c (decodeK c mk) := by
  subst hop
  unfold decodeK
  split
  next small =>
    refine .of_whenUnusedZero hf (fun _ => small) nofun (by simp [zeroBitsK_iff])
      ((wf ..).trans (decide_eq_true small)) fun zero => ?_
    exact (word ..).trans (encodeK_fields (by simpa using zero))
  next large => exact .rejects _ ((illegalWord_iff hf).2 (.inr (.inl ⟨rfl, by omega⟩)))

theorem Verdict.of_decodeR1 {mk : Reg → Reg → Instr} (hop : opcodeField c = op)
    (hf : formatOf op = some .r1) (wf : ∀ rd rs1, wellFormed (mk rd rs1) = true)
    (word : ∀ rd rs1, encode (mk rd rs1) = encodeR1 op rd rs1) : Verdict c (decodeR1 c mk) := by
  subst hop
  refine .of_whenUnusedZero hf nofun nofun (by simp [zeroBitsR1_iff]) (wf ..) fun zero => ?_
  exact (word ..).trans (encodeR1_fields (by simpa using zero))

theorem Verdict.of_decodeR2 {mk : Reg → Reg → Reg → Instr} (hop : opcodeField c = op)
    (hf : formatOf op = some .r2) (wf : ∀ rd rs1 rs2, wellFormed (mk rd rs1 rs2) = true)
    (word : ∀ rd rs1 rs2, encode (mk rd rs1 rs2) = encodeR2 op rd rs1 rs2) :
    Verdict c (decodeR2 c mk) := by
  subst hop
  refine .of_whenUnusedZero hf nofun nofun (by simp [zeroBitsR2_iff]) (wf ..) fun zero => ?_
  exact (word ..).trans (encodeR2_fields (by simpa using zero))

theorem Verdict.of_decodeR3 {mk : Reg → Reg → Reg → Reg → Instr} (hop : opcodeField c = op)
    (hf : formatOf op = some .r3) (wf : ∀ rd rs1 rs2 rs3, wellFormed (mk rd rs1 rs2 rs3) = true)
    (word : ∀ rd rs1 rs2 rs3, encode (mk rd rs1 rs2 rs3) = encodeR3 op rd rs1 rs2 rs3) :
    Verdict c (decodeR3 c mk) := by
  subst hop
  refine .of_whenUnusedZero hf nofun nofun (by simp [zeroBitsR3_iff]) (wf ..) fun zero => ?_
  exact (word ..).trans (encodeR3_fields (by simpa using zero))

theorem Verdict.of_decodeRI {mk : Reg → Reg → BitVec 7 → Instr} (hop : opcodeField c = op)
    (hf : formatOf op = some .ri) (wf : ∀ rd rs1 d, wellFormed (mk rd rs1 d) = true)
    (word : ∀ rd rs1 d, encode (mk rd rs1 d) = encodeRI op rd rs1 d) : Verdict c (decodeRI c mk) := by
  subst hop
  refine .of_whenUnusedZero hf nofun nofun (by simp [zeroBitsRI_iff]) (wf ..) fun zero => ?_
  exact (word ..).trans (encodeRI_fields (by simpa using zero))

theorem Verdict.of_decodeR2D {mk : Reg → Reg → Reg → Reg → Instr} (hop : opcodeField c = op)
    (hf : formatOf op = some .r2d)
    (wf : ∀ rd rd2 rs1 rs2, wellFormed (mk rd rd2 rs1 rs2) = decide (rd ≠ rd2))
    (word : ∀ rd rd2 rs1 rs2, encode (mk rd rd2 rs1 rs2) = encodeR2D op rd rd2 rs1 rs2) :
    Verdict c (decodeR2D c mk) := by
  subst hop
  unfold decodeR2D
  split
  next equal => exact .rejects _ ((illegalWord_iff hf).2 (.inr (.inr ⟨rfl, equal⟩)))
  next differ =>
    refine .of_whenUnusedZero hf nofun (fun _ => differ) (by simp [zeroBitsR2D_iff])
      ((wf ..).trans (decide_eq_true differ)) fun zero => ?_
    exact (word ..).trans (encodeR2D_fields (by simpa using zero))

end Formats

/-- The verdict on a word with the opcode of a command, by the format of the command. -/
theorem decode_verdict_of_opcode {c : Cmd} (i : Instr) (hop : opcodeField c = opcode i) :
    Verdict c (decode c) := by
  rw [decode, hop]
  cases i with
  | nop => exact .of_decodeN hop rfl rfl rfl
  | ldc => exact .of_decodeK hop rfl (fun _ _ => rfl) fun _ _ => rfl
  | mov | zext8 | zext16 | zext32 | zext64 | sext8 | sext16 | sext32 | sext64 | cvtUF64 | cvtF64U
  | cvtSF64 | cvtF64S | not | neg | inc | dec | sqr | cube | sAbs | sFsqrt | sCsqrt | sFcbrt | sCcbrt
  | uFsqrt | uCsqrt | uFcbrt | uCcbrt => exact .of_decodeR1 hop rfl (fun _ _ => rfl) fun _ _ => rfl
  | and | or | xor | shl | shr | sar | eq | ne | uLt | uLe | uGt | uGe | uCmp | uMin | uMax | sLt | sLe
  | sGt | sGe | sCmp | sMin | sMax | add | sub | mul | mul64 | pow | uDiv | uRem | sMul | sDiv | sRem
  | uGcd => exact .of_decodeR2 hop rfl (fun _ _ _ => rfl) fun _ _ _ => rfl
  | shli | shri | sari => exact .of_decodeRI hop rfl (fun _ _ _ => rfl) fun _ _ _ => rfl
  | uModAdd | uModSub | uModMul | uModPow =>
    exact .of_decodeR3 hop rfl (fun _ _ _ _ => rfl) fun _ _ _ _ => rfl
  | uDivRem | sDivRem => exact .of_decodeR2D hop rfl (fun _ _ _ _ => rfl) fun _ _ _ _ => rfl

/-- The decoder rejects the illegal words and reads every other word as the command it encodes. -/
theorem decode_verdict (c : Cmd) : Verdict c (decode c) := by
  cases hf : formatOf (opcodeField c) with
  | none => exact decode_of_formatOf_eq_none hf ▸ .rejects _ (.inl hf)
  | some f =>
    obtain ⟨row, mem, hrow, -⟩ := row_of_formatOf hf
    obtain ⟨i, hi⟩ := exists_opcode_of_row row mem
    exact decode_verdict_of_opcode i (hi.trans hrow).symm

/-! ## The statements about words -/

/-- Settles O2: a word that decodes is not rejected, so it is the encoding of its command. -/
theorem encodeOfDecodeIsIdentity : Obligations.EncodeOfDecodeIsIdentity := by
  intro c i h
  have verdict := decode_verdict c
  rw [h] at verdict
  cases verdict with
  | accepts _ _ wf word => exact ⟨wf, word⟩

/-- The decoder rejects a word in exactly the four cases of R71. -/
theorem decode_error_iff (c : Cmd) : (∃ e, decode c = .error e) ↔ IllegalWord c := by
  have verdict := decode_verdict c
  revert verdict
  generalize decode c = answer
  rintro (⟨e, illegal⟩ | ⟨i, legal, -, -⟩)
  · exact iff_of_true ⟨e, rfl⟩ illegal
  · exact iff_of_false nofun legal

/-- A word in none of the four cases of R71 is a command. -/
theorem exists_decode_of_legal {c : Cmd} (h : ¬ IllegalWord c) : ∃ i, decode c = .ok i := by
  cases hd : decode c with
  | ok i => exact ⟨i, rfl⟩
  | error e => exact absurd ((decode_error_iff c).1 ⟨e, hd⟩) h

/-- The data of a `CMD` write with an illegal word or a set upper half decodes to nothing. -/
theorem decodeData_error {d : Limb} (h : 2 ^ 32 ≤ d.toNat ∨ IllegalWord (d.extractLsb' 0 32)) :
    ∃ e, decodeData d = .error e := by
  rcases Nat.lt_or_ge d.toNat (2 ^ 32) with clear | set
  · rw [decodeData_of_lt d clear]
    exact (decode_error_iff _).2 (h.resolve_left (Nat.not_le.2 clear))
  · exact decodeData_of_ge d set

/-- Settles O3: the decoder's verdict on the word, and the step on data that decodes or does not. -/
theorem illegalWordsAreExactlyTheFourCases : Obligations.IllegalWordsAreExactlyTheFourCases := by
  refine ⟨decode_error_iff, fun s d rest write clear => ⟨fun illegal => ?_, fun upper legal => ?_⟩⟩
  · exact step_cmd_latches_illegal write clear (decodeData_error illegal)
  · obtain ⟨i, hi⟩ := exists_decode_of_legal legal
    exact ⟨i, hi, step_cmd_ok write clear ((decodeData_of_lt d upper).trans hi)⟩

/-- Settles O4, by evaluating the decoder on each word. -/
theorem sampleWordsDecode : Obligations.SampleWordsDecode := by
  unfold Obligations.SampleWordsDecode
  decide

/-- Settles O21: a word with the low byte 0 is in the row of `NOP`, whose format leaves no bit free. -/
theorem nopChangesNothing : Obligations.NopChangesNothing := by
  refine ⟨⟨rfl, decode_encode .nop rfl⟩, fun _ => rfl, fun c low upper => ?_⟩
  have row : formatOf (opcodeField c) = some .n := congrArg formatOf low
  exact (decode_error_iff c).2 (.inr (.inl ⟨.n, row, mt (zeroBitsN_iff c).1 upper⟩))

end Sys2Proof.Machine
end

section
/-! PROOFS. The family of 40_representation_conversion.md: the constants, the copies and extensions of a
register, and the two conversions between integers and doubles, which undo each other. -/

namespace Sys2Proof.Machine

/-! ## Commands with one source -/

section OneSource
variable {i : Instr} {rd rs1 : Reg} {s : State}

/-- The word of a well-formed command is its own number. -/
theorem HasWord.of_wellFormed (wf : wellFormed i = true) : HasWord i (encode i).toNat :=
  ⟨rfl, decode_encode i wf⟩

/-- A command of format R1 has the R1 word of its opcode (30_encoding.md R64). -/
theorem HasWord.of_encodeR1 (wf : wellFormed i = true) (word : encode i = encodeR1 (opcode i) rd rs1) :
    HasWord i (wordR1 (opcode i).toNat rd rs1) := by
  have number := HasWord.of_wellFormed wf
  rwa [word, encodeR1_toNat] at number

/-- A command with one source writes its function of the source, here by a reading of the result, and
nothing else. -/
theorem exec_unaryOp {α : Type} {f : Word → Word} {x : α} (read : Word → α)
    (run : exec i s = .next (unaryOp f rd rs1 s)) (value : read (f (s.reg rs1)) = x) :
    ∃ t, exec i s = .next t ∧ read (t.reg rd) = x ∧ SameOutside [rd] s t := by
  obtain ⟨result, frame⟩ := unaryOp_spec f rd rs1 s
  exact ⟨_, run, (congrArg read result).trans value, frame⟩

end OneSource

/-! ## Constants -/

/-- The constants of R92 by their selectors. -/
theorem constant_of_le {k : BitVec 8} (h : k.toNat ≤ 4) : ∃ v, constant k = some v
    ∧ v.toNat = [0, 1, 2 ^ 128 - 1, 2 ^ 127, 2 ^ 127 - 1].getD k.toNat 0 := by
  unfold constant
  generalize k.toNat = n at h
  match n with
  | 0 => exact ⟨_, rfl, uVal_zeroWord⟩
  | 1 => exact ⟨_, rfl, uVal_oneWord⟩
  | 2 => exact ⟨_, rfl, uVal_maxWord⟩
  | 3 => exact ⟨_, rfl, uVal_sMinWord⟩
  | 4 => exact ⟨_, rfl, uVal_sMaxWord⟩

theorem constant_of_ge {k : BitVec 8} (h : 5 ≤ k.toNat) : constant k = none := by
  unfold constant
  generalize k.toNat = n at h
  match n, h with
  | _ + 5, _ => rfl

/-- Settles O22: a selector up to 4 names its constant, and the others name none. -/
theorem ldcLoadsTheFiveConstants : Obligations.LdcLoadsTheFiveConstants := by
  intro s rd k
  refine ⟨fun small => ?_, fun large => ?_⟩
  · have word := HasWord.of_wellFormed (i := .ldc rd k) (decide_eq_true small)
    obtain ⟨v, named, value⟩ := constant_of_le small
    have run : exec (.ldc rd k) s = .next (s.setReg rd v) := by
      rw [exec, execLdc, named]
    exact ⟨encodeK_toNat 0x10 rd k ▸ word, _, run, by rwa [State.reg_setReg_same],
      s.setReg_sameOutside ..⟩
  · have run : exec (.ldc rd k) s = .next (s.raise .illegalCommand (encode (.ldc rd k))) := by
      rw [exec, execLdc, constant_of_ge large]
    exact ⟨_, run, s.raise_latches ..⟩

/-! ## Zero and sign extension -/

theorem toNat_zextLow (v : Word) {w : Nat} (h : w ≤ 128) : (zextLow w v).toNat = v.toNat % 2 ^ w := by
  have fits : v.toNat % 2 ^ w < 2 ^ 128 :=
    (Nat.mod_lt _ (by positivity)).trans_le (Nat.pow_le_pow_right (by decide) h)
  rw [zextLow, BitVec.zeroExtend, BitVec.toNat_setWidth, BitVec.extractLsb'_toNat,
    Nat.shiftRight_zero, Nat.mod_eq_of_lt fits]

/-- The sign extension of the low bits is their balanced residue. -/
theorem toInt_sextLow (v : Word) {w : Nat} (h : w ≤ 128) :
    (sextLow w v).toInt = Int.bmod v.toNat (2 ^ w) := by
  rw [sextLow, BitVec.toInt_signExtend_of_le h, BitVec.toInt_eq_toNat_bmod, BitVec.extractLsb'_toNat,
    Nat.shiftRight_zero, Int.natCast_mod, Int.emod_bmod]

/-- Settles O23: `MOV` is the identity, and each `ZEXT` keeps the remainder modulo its width. -/
theorem movAndZextCopyLowBits : Obligations.MovAndZextCopyLowBits := by
  intro s rd rs1
  exact ⟨.of_encodeR1 rfl rfl, exec_unaryOp BitVec.toNat rfl rfl,
    .of_encodeR1 rfl rfl, exec_unaryOp BitVec.toNat rfl (toNat_zextLow _ (by decide)),
    .of_encodeR1 rfl rfl, exec_unaryOp BitVec.toNat rfl (toNat_zextLow _ (by decide)),
    .of_encodeR1 rfl rfl, exec_unaryOp BitVec.toNat rfl (toNat_zextLow _ (by decide)),
    .of_encodeR1 rfl rfl, exec_unaryOp BitVec.toNat rfl (toNat_zextLow _ (by decide))⟩

/-- Settles O24: each `SEXT` keeps the balanced residue modulo its width. -/
theorem sextSignExtendsLowBits : Obligations.SextSignExtendsLowBits := by
  intro s rd rs1
  exact ⟨.of_encodeR1 rfl rfl, exec_unaryOp BitVec.toInt rfl (toInt_sextLow _ (by decide)),
    .of_encodeR1 rfl rfl, exec_unaryOp BitVec.toInt rfl (toInt_sextLow _ (by decide)),
    .of_encodeR1 rfl rfl, exec_unaryOp BitVec.toInt rfl (toInt_sextLow _ (by decide)),
    .of_encodeR1 rfl rfl, exec_unaryOp BitVec.toInt rfl (toInt_sextLow _ (by decide))⟩

/-! ## The sign bit of a double -/

section SignBit
variable {p : Limb}

theorem f64Sign_eq_false_iff (p : Limb) : f64Sign p = false ↔ p.toNat < 2 ^ 63 := by
  have := p.isLt
  simp only [f64Sign, BitVec.getLsbD, Nat.testBit_eq_decide_div_mod_eq, decide_eq_false_iff_not]
  omega

theorem and_f64Magnitude (h : f64Sign p = false) : p &&& 0x7FFFFFFFFFFFFFFF = p := by
  apply BitVec.eq_of_toNat_eq
  rw [BitVec.toNat_and, ← Nat.mod_eq_of_lt ((f64Sign_eq_false_iff p).1 h)]
  exact (Nat.and_two_pow_sub_one_eq_mod _ 63).trans (Nat.mod_mod ..)

theorem f64Sign_or_signBit (p : Limb) : f64Sign (p ||| 0x8000000000000000) = true := by
  simp [f64Sign]

/-- Clearing the sign bit undoes setting it. -/
theorem or_signBit_and_f64Magnitude (h : f64Sign p = false) :
    (p ||| 0x8000000000000000) &&& 0x7FFFFFFFFFFFFFFF = p := by
  have disjoint : (0x8000000000000000 : Limb) &&& 0x7FFFFFFFFFFFFFFF = 0#64 := by decide
  rw [BitVec.and_or_distrib_right, disjoint, BitVec.or_zero, and_f64Magnitude h]

end SignBit

/-! ## Double to integer -/

section DoubleToInteger
variable {p : Limb} {n : Nat}

/-- Powers of two on both sides of an equation, moved to the side of the larger one. -/
theorem eq_mul_two_pow_sub {m a b : Nat} (h : n * 2 ^ a = m * 2 ^ b) (hab : a ≤ b) :
    n = m * 2 ^ (b - a) := by
  apply Nat.eq_of_mul_eq_mul_right (Nat.two_pow_pos a)
  rw [h, Nat.mul_assoc, ← Nat.pow_add, Nat.sub_add_cancel hab]

/-- A pattern that encodes a natural number is read as that number (40_representation_conversion.md
R103): a zero; or a normal number, whose power of two is scaled up from exponent 1075 on and divides the
significand below. -/
theorem f64Integer_of_f64IsNat (h : F64IsNat p n) : f64Integer p = some n := by
  obtain ⟨-, ⟨exponent, fraction, rfl⟩ | ⟨low, high, scaled⟩⟩ := h
  · simp [f64Integer, f64Exponent, f64Fraction, exponent, fraction]
  rw [← f64Exponent] at low high scaled
  rw [← f64Fraction] at scaled
  simp only [f64Integer]
  rw [if_neg (Nat.one_le_iff_ne_zero.1 low), if_neg (Nat.lt_succ_of_le high).ne]
  split
  next up => rw [← eq_mul_two_pow_sub scaled up]
  next down =>
    rw [eq_mul_two_pow_sub scaled.symm (Nat.le_of_not_le down), if_pos (Nat.mul_mod_left ..),
      Nat.mul_div_cancel _ (Nat.two_pow_pos _)]

/-- Property FP1 (40_representation_conversion.md R104). -/
theorem f64ToU128_of_f64IsNat (h : F64IsNat p n) (hn : n < 2 ^ 64) : f64ToU128 p = pat n := by
  have natural : f64SmallNatural p = some n := by
    have positive : f64Sign p = false := h.1
    simp only [f64SmallNatural, positive, f64Integer_of_f64IsNat h, if_pos hn, Bool.false_eq_true,
      if_false]
  rw [f64ToU128, natural]

theorem toNat_f64ToU128 (h : F64IsNat p n) (hn : n < 2 ^ 64) : (f64ToU128 p).toNat = n := by
  rw [f64ToU128_of_f64IsNat h hn]
  exact uVal_pat_of_lt (by omega)

/-- The signed conversion is the unsigned one of the magnitude, negated modulo `2^128` under the sign
bit (40_representation_conversion.md R109). -/
theorem toNat_f64ToS128 (p : Limb) : (f64ToS128 p).toNat =
    (if p.getLsbD 63 then 2 ^ 128 - (f64ToU128 (p &&& 0x7FFFFFFFFFFFFFFF)).toNat
      else (f64ToU128 (p &&& 0x7FFFFFFFFFFFFFFF)).toNat) % 2 ^ 128 := by
  rw [f64ToS128, ← f64Sign]
  cases f64Sign p with
  | true => exact uVal_neg _
  | false => exact (Nat.mod_eq_of_lt (BitVec.isLt _)).symm

/-- A magnitude below `2^64` keeps its value under either sign. -/
theorem toInt_f64ToS128 (h : F64IsNat (p &&& 0x7FFFFFFFFFFFFFFF) n) (hn : n < 2 ^ 64) :
    (f64ToS128 p).toInt = if p.getLsbD 63 then -(n : Int) else n := by
  rw [BitVec.toInt_eq_toNat_cond, toNat_f64ToS128, toNat_f64ToU128 h hn]
  split_ifs <;> omega

end DoubleToInteger

/-- Settles O25, by the readings of the two conversions. -/
theorem doubleToIntegerConversions : Obligations.DoubleToIntegerConversions := by
  refine ⟨fun _ _ => toNat_f64ToU128, fun s rd rs1 => ?_⟩
  obtain ⟨result, frame⟩ := unaryOp_spec (fun a => f64ToS128 (lo a)) rd rs1 s
  refine ⟨.of_encodeR1 rfl rfl, exec_unaryOp id rfl rfl, .of_encodeR1 rfl rfl, _, rfl, ?_, ?_, frame⟩
  · rw [result, toNat_f64ToS128]
  · intro n natural bound
    rw [result, toInt_f64ToS128 natural bound]

/-! ## Integer to double -/

/-- The trailing zeros counted are at least as many as any power of two that divides the number. -/
theorem le_trailingZeros {j k n : Nat} (hk : k ≤ j) (h : 2 ^ k ∣ n) : k ≤ trailingZeros j n := by
  induction j generalizing k n with
  | zero => exact hk
  | succ j ih =>
    cases k with
    | zero => exact Nat.zero_le _
    | succ k =>
      obtain ⟨m, rfl⟩ := h
      have half : 2 ^ (k + 1) * m = 2 * (2 ^ k * m) := by ring
      have tail : k ≤ trailingZeros j (2 ^ k * m) := ih (by omega) (Nat.dvd_mul_right ..)
      rw [half, trailingZeros, if_neg (by omega), Nat.mul_div_cancel_left _ (by decide)]
      omega

section IntegerToDouble
variable {n : Nat} {v : Word}

/-- The model counts at most 53 significant bits where the rule does (40_representation_conversion.md
R105). -/
theorem significantBits_le (pos : 0 < n) (bound : n < 2 ^ 128) (h : AtMost53Bits n) :
    significantBits n ≤ 53 := by
  obtain ⟨m, k, rfl, hm⟩ := h
  have hk : k < 128 := by
    have : 2 ^ k ≤ m * 2 ^ k := Nat.le_mul_of_pos_left _ (Nat.pos_of_mul_pos_right pos)
    exact (Nat.pow_lt_pow_iff_right (by decide)).1 (this.trans_lt bound)
  have zeros : k ≤ trailingZeros 128 (m * 2 ^ k) := le_trailingZeros hk.le (Nat.dvd_mul_left ..)
  have length : bitlen (m * 2 ^ k) ≤ 53 + k := by
    rw [bitlen_le_iff, Nat.pow_add]
    exact Nat.mul_lt_mul_of_pos_right hm (Nat.two_pow_pos k)
  unfold significantBits
  omega

/-- The significand of a positive number, scaled to 53 bits, is between `2^52` and `2^53`. -/
theorem significand_bounds (pos : 0 < n) :
    2 ^ 52 ≤ n * 2 ^ 52 / 2 ^ n.log2 ∧ n * 2 ^ 52 / 2 ^ n.log2 < 2 ^ 53 := by
  have lower : 2 ^ n.log2 ≤ n := Nat.log2_self_le pos.ne'
  have upper : n < 2 ^ n.log2 * 2 := by simpa [Nat.pow_succ] using Nat.lt_log2_self (n := n)
  rw [Nat.le_div_iff_mul_le (Nat.two_pow_pos _), Nat.div_lt_iff_lt_mul (Nat.two_pow_pos _)]
  omega

/-- The scaling of the significand is exact up to 53 significant bits. -/
theorem significand_mul (pos : 0 < n) (h : AtMost53Bits n) :
    n * 2 ^ 52 / 2 ^ n.log2 * 2 ^ n.log2 = n * 2 ^ 52 := by
  apply Nat.div_mul_cancel
  obtain ⟨m, k, rfl, hm⟩ := h
  have length : (m * 2 ^ k).log2 < 53 + k := by
    rw [Nat.log2_lt pos.ne', Nat.pow_add]
    exact Nat.mul_lt_mul_of_pos_right hm (Nat.two_pow_pos k)
  calc 2 ^ (m * 2 ^ k).log2 ∣ 2 ^ (k + 52) := Nat.pow_dvd_pow 2 (by omega)
    _ = 2 ^ k * 2 ^ 52 := Nat.pow_add ..
    _ ∣ m * 2 ^ k * 2 ^ 52 := Nat.mul_dvd_mul_right (Nat.dvd_mul_left ..) _

/-- The two fields of the pattern do not overlap, so it is their sum. -/
theorem toNat_f64OfExact (pos : 0 < n) (bound : n < 2 ^ 128) : (f64OfExact n).toNat =
    (n.log2 + 1023) * 2 ^ 52 + (n * 2 ^ 52 / 2 ^ n.log2 - 2 ^ 52) := by
  obtain ⟨lower, upper⟩ := significand_bounds pos
  have exponent : n.log2 < 128 := (Nat.log2_lt pos.ne').2 bound
  have length : bitlen n - 1 = n.log2 := by simp [bitlen, pos.ne']
  have fraction : n * 2 ^ 52 / 2 ^ n.log2 - 2 ^ 52 < 2 ^ 52 := by omega
  simp only [f64OfExact, length, BitVec.toNat_ofNat]
  rw [← Nat.shiftLeft_add_eq_or_of_lt fraction, Nat.shiftLeft_eq, Nat.mod_eq_of_lt (by omega)]

theorem u128ToF64_of_zero (h : v.toNat = 0) : u128ToF64 v = 0 := if_pos h

/-- Property FP3 (40_representation_conversion.md R105). -/
theorem u128ToF64_of_pos (pos : 0 < v.toNat) (h : AtMost53Bits v.toNat) :
    u128ToF64 v = f64OfExact v.toNat :=
  (if_neg pos.ne').trans (if_pos (significantBits_le pos v.isLt h))

theorem mag_eq_ofNat (v : Word) : mag v = BitVec.ofNat 128 v.toInt.natAbs := by
  rw [← sVal_eq_toInt, ← uVal_mag, uVal, BitVec.ofNat_toNat, BitVec.setWidth_eq]

/-- The signed conversion is the unsigned one of the magnitude, with the sign bit set under a negative
value (40_representation_conversion.md R108). -/
theorem s128ToF64_eq (v : Word) : s128ToF64 v =
    if v.toInt < 0 then u128ToF64 (BitVec.ofNat 128 v.toInt.natAbs) ||| 0x8000000000000000
      else u128ToF64 v := by
  simp only [s128ToF64, ← mag_eq_ofNat, ← isNeg_iff_toInt]
  split
  next => rfl
  next h => rw [mag, if_neg h]

theorem toNat_ofLimbs_zero (l : Limb) : (ofLimbs 0 l).toNat = l.toNat := by
  simpa [uVal] using uVal_ofLimbs 0 l

end IntegerToDouble

/-- Settles O26: each case of the conversion function is its property, and the high limb is 0. -/
theorem integerToDoubleConversions : Obligations.IntegerToDoubleConversions := by
  refine ⟨fun v zero => ?_, fun v pos exact53 => ?_, fun s rd rs1 => ?_⟩
  · rw [u128ToF64_of_zero zero]
    rfl
  · rw [u128ToF64_of_pos pos exact53, toNat_f64OfExact pos v.isLt]
  · refine ⟨.of_encodeR1 rfl rfl, exec_unaryOp BitVec.toNat rfl (toNat_ofLimbs_zero _),
      .of_encodeR1 rfl rfl, exec_unaryOp BitVec.toNat rfl ?_⟩
    rw [toNat_ofLimbs_zero, s128ToF64_eq]

/-! ## The round trip -/

section RoundTrip
variable {p : Limb} {v : Word}

/-- The fields of a pattern that is given as a sum. -/
theorem f64_fields {e f : Nat} (h : p.toNat = e * 2 ^ 52 + f) (he : e < 2 ^ 11) (hf : f < 2 ^ 52) :
    f64Sign p = false ∧ f64Exponent p = e ∧ f64Fraction p = f := by
  rw [f64Sign_eq_false_iff]
  simp only [f64Exponent, f64Fraction, BitVec.extractLsb'_toNat, Nat.shiftRight_eq_div_pow]
  omega

/-- The pattern of a positive number of at most 53 significant bits encodes that number. -/
theorem f64IsNat_f64OfExact {n : Nat} (pos : 0 < n) (bound : n < 2 ^ 128) (h : AtMost53Bits n) :
    F64IsNat (f64OfExact n) n := by
  obtain ⟨lower, upper⟩ := significand_bounds pos
  have exponentBound : n.log2 < 128 := (Nat.log2_lt pos.ne').2 bound
  obtain ⟨sign, exponent, fraction⟩ :=
    f64_fields (toNat_f64OfExact pos bound) (by omega) (by omega)
  refine ⟨sign, .inr ?_⟩
  rw [← f64Exponent, ← f64Fraction, exponent, fraction, Nat.add_sub_cancel' lower]
  refine ⟨by omega, by omega, ?_⟩
  calc n * 2 ^ 1075 = n * 2 ^ 52 * 2 ^ 1023 := by rw [Nat.mul_assoc, ← Nat.pow_add]
    _ = n * 2 ^ 52 / 2 ^ n.log2 * 2 ^ n.log2 * 2 ^ 1023 := by rw [significand_mul pos h]
    _ = n * 2 ^ 52 / 2 ^ n.log2 * 2 ^ (n.log2 + 1023) := by rw [Nat.mul_assoc, ← Nat.pow_add]

/-- The pattern of a value of at most 53 significant bits encodes that value. -/
theorem f64IsNat_u128ToF64 (h : AtMost53Bits v.toNat) : F64IsNat (u128ToF64 v) v.toNat := by
  rcases Nat.eq_zero_or_pos v.toNat with zero | pos
  · rw [u128ToF64_of_zero zero, zero]
    exact ⟨by decide, .inl (by decide)⟩
  · rw [u128ToF64_of_pos pos h]
    exact f64IsNat_f64OfExact pos v.isLt h

theorem f64ToU128_u128ToF64 (bound : v.toNat < 2 ^ 64) (h : AtMost53Bits v.toNat) :
    f64ToU128 (u128ToF64 v) = v := by
  rw [f64ToU128_of_f64IsNat (f64IsNat_u128ToF64 h) bound]
  exact pat_uVal v

theorem neg_neg_word (v : Word) : neg (neg v) = v := by
  apply uVal_inj
  have := uVal_lt v
  rw [uVal_neg, uVal_neg]
  omega

/-- The magnitude makes the unsigned round trip, and the sign bit carries the sign past it. -/
theorem f64ToS128_s128ToF64 (bound : v.toInt.natAbs < 2 ^ 64) (h : AtMost53Bits v.toInt.natAbs) :
    f64ToS128 (s128ToF64 v) = v := by
  have magnitude : (mag v).toNat = v.toInt.natAbs := by rw [← sVal_eq_toInt, ← uVal_mag, uVal]
  rw [← magnitude] at bound h
  have back := f64ToU128_u128ToF64 bound h
  have sign : f64Sign (u128ToF64 (mag v)) = false := (f64IsNat_u128ToF64 h).1
  unfold f64ToS128 s128ToF64
  by_cases negative : isNeg v = true
  · simp only [if_pos negative, f64Sign_or_signBit, or_signBit_and_f64Magnitude sign, back, if_true]
    rw [mag, if_pos negative, neg_neg_word]
  · simp only [if_neg negative, sign, and_f64Magnitude sign, back, Bool.false_eq_true, if_false]
    rw [mag, if_neg negative]

end RoundTrip

/-- Settles O27: the register between the two commands holds the double in its low limb. -/
theorem floatRoundTripIsExact : Obligations.FloatRoundTripIsExact := by
  intro s rd rd' rs1
  refine ⟨fun bound exact53 => ⟨_, _, rfl, rfl, ?_⟩, fun bound exact53 => ⟨_, _, rfl, rfl, ?_⟩⟩
  · simp only [unaryOp, State.reg_setReg_same, lo_ofLimbs]
    exact f64ToU128_u128ToF64 bound exact53
  · simp only [unaryOp, State.reg_setReg_same, lo_ofLimbs]
    exact f64ToS128_s128ToF64 bound exact53

end Sys2Proof.Machine
end

section
/-! PROOFS. The family of 41_bitwise_shift_compare.md: the bits of a value made of two limbs, the shifts
and the shift paths as the shifts of bit vectors, and the results of the comparisons by a reading of the
operands. -/

namespace Sys2Proof.Machine

/-! ## Commands of formats R2 and RI, and commands with two sources -/

section TwoSources
variable {i : Instr} {rd rs1 rs2 : Reg} {d : BitVec 7} {s : State}

/-- A command of format R2 has the R2 word of its opcode (30_encoding.md R65). -/
theorem HasWord.of_encodeR2 (wf : wellFormed i = true)
    (word : encode i = encodeR2 (opcode i) rd rs1 rs2) :
    HasWord i (wordR2 (opcode i).toNat rd rs1 rs2) := by
  have number := HasWord.of_wellFormed wf
  rwa [word, encodeR2_toNat] at number

/-- A command of format RI has the RI word of its opcode (30_encoding.md R67). -/
theorem HasWord.of_encodeRI (wf : wellFormed i = true)
    (word : encode i = encodeRI (opcode i) rd rs1 d) :
    HasWord i (wordRI (opcode i).toNat rd rs1 d) := by
  have number := HasWord.of_wellFormed wf
  rwa [word, encodeRI_toNat] at number

/-- A command with two sources writes its function of the sources, here by a reading of the result, and
nothing else. -/
theorem exec_binaryOp {α : Type} {f : Word → Word → Word} {x : α} (read : Word → α)
    (run : exec i s = .next (binaryOp f rd rs1 rs2 s))
    (value : read (f (s.reg rs1) (s.reg rs2)) = x) :
    ∃ t, exec i s = .next t ∧ read (t.reg rd) = x ∧ SameOutside [rd] s t := by
  obtain ⟨result, frame⟩ := binaryOp_spec f rd rs1 rs2 s
  exact ⟨_, run, (congrArg read result).trans value, frame⟩

end TwoSources

/-! ## The bits of a value by its limbs -/

theorem getLsbD_lo (v : Word) (i : Nat) : (lo v).getLsbD i = (decide (i < 64) && v.getLsbD i) := by
  simp [lo]

theorem getLsbD_hi (v : Word) (i : Nat) :
    (hi v).getLsbD i = (decide (i < 64) && v.getLsbD (64 + i)) := by
  simp [hi]

theorem getLsbD_ofLimbs (h l : Limb) (i : Nat) :
    (ofLimbs h l).getLsbD i = if i < 64 then l.getLsbD i else h.getLsbD (i - 64) :=
  BitVec.getLsbD_append

/-- A value made of the same function of both limbs' bits is that function of the bits
(41_bitwise_shift_compare.md R124). -/
theorem getLsbD_limbwise {f : Limb → Limb → Limb} {g : Bool → Bool → Bool}
    (bit : ∀ x y j, j < 64 → (f x y).getLsbD j = g (x.getLsbD j) (y.getLsbD j)) (a b : Word) {j : Nat}
    (hj : j < 128) : (limbwise f a b).getLsbD j = g (a.getLsbD j) (b.getLsbD j) := by
  rw [limbwise, getLsbD_ofLimbs]
  split
  next low =>
    rw [bit _ _ _ low, getLsbD_lo, getLsbD_lo, decide_eq_true low, Bool.true_and, Bool.true_and]
  next high =>
    have inLimb : j - 64 < 64 := by omega
    have place : 64 + (j - 64) = j := by omega
    rw [bit _ _ _ inLimb, getLsbD_hi, getLsbD_hi, decide_eq_true inLimb, place, Bool.true_and,
      Bool.true_and]

/-- A command that works limb by limb works bit by bit. -/
theorem exec_limbwise {i : Instr} {f : Limb → Limb → Limb} {rd rs1 rs2 : Reg} {s : State}
    (g : Bool → Bool → Bool) (run : exec i s = .next (binaryOp (limbwise f) rd rs1 rs2 s))
    (bit : ∀ x y j, j < 64 → (f x y).getLsbD j = g (x.getLsbD j) (y.getLsbD j)) :
    ∃ t, exec i s = .next t ∧ (∀ j, j < 128 → (t.reg rd).getLsbD j =
      g ((s.reg rs1).getLsbD j) ((s.reg rs2).getLsbD j)) ∧ SameOutside [rd] s t := by
  obtain ⟨result, frame⟩ := binaryOp_spec (limbwise f) rd rs1 rs2 s
  exact ⟨_, run, fun _ hj => result ▸ getLsbD_limbwise bit _ _ hj, frame⟩

/-- Settles O28. `NOT` runs as the limbwise command that ignores its second source. -/
theorem bitwiseCommandsActBitByBit : Obligations.BitwiseCommandsActBitByBit := by
  intro s rd rs1 rs2
  have complement :
      exec (.not rd rs1) s = .next (binaryOp (limbwise fun x _ => ~~~x) rd rs1 rs1 s) := rfl
  exact ⟨.of_encodeR2 rfl rfl, exec_limbwise and rfl fun _ _ _ _ => BitVec.getLsbD_and,
    .of_encodeR2 rfl rfl, exec_limbwise or rfl fun _ _ _ _ => BitVec.getLsbD_or,
    .of_encodeR2 rfl rfl, exec_limbwise xor rfl fun _ _ _ _ => BitVec.getLsbD_xor,
    .of_encodeR1 rfl rfl, exec_limbwise (fun x _ => !x) complement fun _ _ _ hj => by simp [hj]⟩

/-! ## The shifts by an amount -/

section Shifts
variable (a : Word) (d : Nat)

/-- The arithmetic shift of a bit vector divides its signed reading, rounding down. -/
theorem toInt_sshiftRight {w : Nat} (x : BitVec w) : (x.sshiftRight d).toInt = x.toInt / 2 ^ d := by
  rw [BitVec.toInt_sshiftRight, Int.shiftRight_eq_div_pow]
  norm_cast

theorem ofInt_toInt_div {w : Nat} (x : BitVec w) :
    BitVec.ofInt w (x.toInt / 2 ^ d) = x.sshiftRight d := by
  rw [← toInt_sshiftRight, BitVec.ofInt_toInt]

theorem toNat_shiftLeft : (shiftLeft a d).toNat = a.toNat * 2 ^ d % 2 ^ 128 := uVal_pat_nat _

theorem toNat_shiftRight : (shiftRight a d).toNat = a.toNat / 2 ^ d :=
  uVal_pat_of_lt ((Nat.div_le_self ..).trans_lt a.isLt)

theorem shiftArith_eq : shiftArith a d = a.sshiftRight d := by
  rw [shiftArith, sVal_eq_toInt]
  exact ofInt_toInt_div d a

theorem toInt_shiftArith : (shiftArith a d).toInt = a.toInt / 2 ^ d := by
  rw [shiftArith_eq, toInt_sshiftRight]

theorem shiftLeft_eq : shiftLeft a d = a <<< d := by
  apply BitVec.eq_of_toNat_eq
  rw [toNat_shiftLeft, BitVec.toNat_shiftLeft, Nat.shiftLeft_eq]

theorem shiftRight_eq : shiftRight a d = a >>> d := by
  apply BitVec.eq_of_toNat_eq
  rw [toNat_shiftRight, BitVec.toNat_ushiftRight, Nat.shiftRight_eq_div_pow]

/-! ## The limbs of a shifted value

Each is compared bit by bit: bit `j` of both sides is the same bit of the value, or the same fill. -/

theorem lo_shiftLeft : lo (a <<< d) = lo a <<< d := by
  refine BitVec.eq_of_getLsbD_eq fun j hj => ?_
  simp only [getLsbD_lo, BitVec.getLsbD_shiftLeft]
  grind

theorem hi_ushiftRight : hi (a >>> d) = hi a >>> d := by
  refine BitVec.eq_of_getLsbD_eq fun j hj => ?_
  simp only [getLsbD_hi, BitVec.getLsbD_ushiftRight]
  grind

theorem hi_sshiftRight : hi (a.sshiftRight d) = (hi a).sshiftRight d := by
  refine BitVec.eq_of_getLsbD_eq fun j hj => ?_
  simp only [getLsbD_hi, BitVec.getLsbD_sshiftRight, BitVec.msb_eq_getLsbD_last]
  grind

variable {d}

/-- Below 64, the bits that leave the low limb enter the high one. -/
theorem hi_shiftLeft_of_lt (hd : d < 64) : hi (a <<< d) = hi a <<< d ||| lo a >>> (64 - d) := by
  refine BitVec.eq_of_getLsbD_eq fun j hj => ?_
  simp only [getLsbD_hi, getLsbD_lo, BitVec.getLsbD_or, BitVec.getLsbD_shiftLeft,
    BitVec.getLsbD_ushiftRight]
  grind

/-- From 64 on, the low limb is relocated to the high one. -/
theorem hi_shiftLeft_of_ge (hd : 64 ≤ d) : hi (a <<< d) = lo a <<< (d - 64) := by
  refine BitVec.eq_of_getLsbD_eq fun j hj => ?_
  simp only [getLsbD_hi, getLsbD_lo, BitVec.getLsbD_shiftLeft]
  grind

/-- Below 64, the bits that leave the high limb enter the low one. -/
theorem lo_ushiftRight_of_lt (hd : d < 64) :
    lo (a >>> d) = lo a >>> d ||| hi a <<< (64 - d) := by
  refine BitVec.eq_of_getLsbD_eq fun j hj => ?_
  simp only [getLsbD_hi, getLsbD_lo, BitVec.getLsbD_or, BitVec.getLsbD_shiftLeft,
    BitVec.getLsbD_ushiftRight]
  grind

/-- From 64 on, the high limb is relocated to the low one. -/
theorem lo_ushiftRight_of_ge (hd : 64 ≤ d) : lo (a >>> d) = hi a >>> (d - 64) := by
  refine BitVec.eq_of_getLsbD_eq fun j hj => ?_
  simp only [getLsbD_hi, getLsbD_lo, BitVec.getLsbD_ushiftRight]
  grind

theorem lo_sshiftRight_of_ge (hd : 64 ≤ d) : lo (a.sshiftRight d) = (hi a).sshiftRight (d - 64) := by
  refine BitVec.eq_of_getLsbD_eq fun j hj => ?_
  simp only [getLsbD_hi, getLsbD_lo, BitVec.getLsbD_sshiftRight, BitVec.msb_eq_getLsbD_last]
  grind

/-- Up to 64, what fills the high limb does not reach the low one. -/
theorem lo_sshiftRight_of_le (hd : d ≤ 64) : lo (a.sshiftRight d) = lo (a >>> d) := by
  refine BitVec.eq_of_getLsbD_eq fun j hj => ?_
  simp only [getLsbD_lo, BitVec.getLsbD_sshiftRight, BitVec.getLsbD_ushiftRight]
  grind

theorem isNeg_eq_msb_hi : isNeg a = (hi a).msb := by
  rw [BitVec.msb_eq_getLsbD_last, getLsbD_hi]
  rfl

/-- From 64 on, the high limb holds copies of the sign. -/
theorem hi_sshiftRight_of_ge (hd : 64 ≤ d) :
    hi (a.sshiftRight d) = if isNeg a then 0xFFFFFFFFFFFFFFFF else 0 := by
  have copies (j : Nat) (hj : j < 64) : ((hi a).sshiftRight d).getLsbD j = isNeg a := by
    rw [BitVec.getLsbD_sshiftRight, if_neg (by omega), isNeg_eq_msb_hi]
    simp [hj]
  refine BitVec.eq_of_getLsbD_eq fun j hj => ?_
  rw [hi_sshiftRight, copies j hj]
  cases isNeg a with
  | true => exact (BitVec.getLsbD_allOnes.trans (decide_eq_true hj)).symm
  | false => exact BitVec.getLsbD_zero.symm

/-! ## The shift paths (41_bitwise_shift_compare.md R129 below 64, R130 from 64 on) -/

variable (d)

/-- The left-shift path has the limbs of the left shift. -/
theorem shiftLeftPath_eq : shiftLeftPath a d = shiftLeft a d := by
  rw [shiftLeft_eq, shiftLeftPath]
  split_ifs with zero small
  · rw [zero, BitVec.shiftLeft_zero]
  · rw [← hi_shiftLeft_of_lt a small, ← lo_shiftLeft, ofLimbs_hi_lo]
  · have large : 64 ≤ d := Nat.le_of_not_lt small
    have low : lo (a <<< d) = 0 := (lo_shiftLeft a d).trans (BitVec.shiftLeft_eq_zero large)
    rw [← hi_shiftLeft_of_ge a large, ← low, ofLimbs_hi_lo]

/-- The logical right-shift path has the limbs of the logical right shift. -/
theorem shiftRightPath_eq : shiftRightPath a d = shiftRight a d := by
  rw [shiftRight_eq, shiftRightPath]
  split_ifs with zero small
  · rw [zero, BitVec.ushiftRight_zero]
  · rw [← lo_ushiftRight_of_lt a small, ← hi_ushiftRight, ofLimbs_hi_lo]
  · have large : 64 ≤ d := Nat.le_of_not_lt small
    have high : hi (a >>> d) = 0 := (hi_ushiftRight a d).trans (BitVec.ushiftRight_eq_zero large)
    rw [← lo_ushiftRight_of_ge a large, ← high, ofLimbs_hi_lo]

/-- A limb divided by its signed reading is the limb shifted arithmetically. -/
theorem pat64_s64_div (l : Limb) : pat64 (s64 l / 2 ^ d) = l.sshiftRight d := by
  rw [pat64, s64_eq_toInt, ofInt_toInt_div]

/-- The arithmetic right-shift path has the limbs of the arithmetic right shift. -/
theorem shiftArithPath_eq : shiftArithPath a d = shiftArith a d := by
  rw [shiftArith_eq, shiftArithPath, pat64_s64_div, pat64_s64_div]
  split
  next zero => rw [zero, BitVec.sshiftRight_zero]
  next =>
    split
    next small =>
      rw [← lo_ushiftRight_of_lt a small, ← lo_sshiftRight_of_le a small.le, ← hi_sshiftRight,
        ofLimbs_hi_lo]
    next notSmall =>
      have large : 64 ≤ d := Nat.le_of_not_lt notSmall
      rw [← hi_sshiftRight_of_ge a large, ← lo_sshiftRight_of_ge a large, ofLimbs_hi_lo]

end Shifts

/-- Settles O31: each path is its shift, for every amount. -/
theorem shiftPathsAgreeWithTheShifts : Obligations.ShiftPathsAgreeWithTheShifts := by
  intro a d _
  rw [shiftLeftPath_eq, shiftRightPath_eq, shiftArithPath_eq]
  exact ⟨toNat_shiftLeft a d, toNat_shiftRight a d, toInt_shiftArith a d⟩

/-! ## The shift commands -/

section ShiftByRegister
variable {op : BitVec 8} {f : Word → Nat → Word} {a b : Word}

theorem shiftByReg_of_lt (h : b.toNat < 128) : shiftByReg op f a b = f a b.toNat := if_pos h

theorem shiftByReg_of_ge (h : 128 ≤ b.toNat) : shiftByReg op f a b = Config.shiftDraw op a b :=
  if_neg (Nat.not_lt.2 h)

/-- A shift by a register below 128 writes the shift by that amount, here by a reading of it. -/
theorem exec_shiftByReg_of_lt {α : Type} {i : Instr} {rd rs1 rs2 : Reg} {s : State} {x : α}
    (read : Word → α) (run : exec i s = .next (binaryOp (shiftByReg op f) rd rs1 rs2 s))
    (h : (s.reg rs2).toNat < 128) (value : read (f (s.reg rs1) (s.reg rs2).toNat) = x) :
    ∃ t, exec i s = .next t ∧ read (t.reg rd) = x ∧ SameOutside [rd] s t :=
  exec_binaryOp read run ((congrArg read (shiftByReg_of_lt h)).trans value)

end ShiftByRegister

/-- Settles O29, by the amount being below 128 or not. -/
theorem shiftsByRegister : Obligations.ShiftsByRegister := by
  intro s rd rs1 rs2
  exact ⟨.of_encodeR2 rfl rfl,
    fun small => exec_shiftByReg_of_lt BitVec.toNat rfl small (toNat_shiftLeft ..),
    fun large => exec_binaryOp id rfl (shiftByReg_of_ge large),
    .of_encodeR2 rfl rfl,
    fun small => exec_shiftByReg_of_lt BitVec.toNat rfl small (toNat_shiftRight ..),
    fun large => exec_binaryOp id rfl (shiftByReg_of_ge large),
    .of_encodeR2 rfl rfl,
    fun small => exec_shiftByReg_of_lt BitVec.toInt rfl small (toInt_shiftArith ..),
    fun large => exec_binaryOp id rfl (shiftByReg_of_ge large)⟩

/-- Settles O30: the immediate is the amount. -/
theorem shiftsByImmediate : Obligations.ShiftsByImmediate := by
  intro s rd rs1 d
  exact ⟨.of_encodeRI rfl rfl, exec_unaryOp BitVec.toNat rfl (toNat_shiftLeft ..),
    .of_encodeRI rfl rfl, exec_unaryOp BitVec.toNat rfl (toNat_shiftRight ..),
    .of_encodeRI rfl rfl, exec_unaryOp BitVec.toInt rfl (toInt_shiftArith ..)⟩

/-! ## Comparison results -/

section Results
variable {p q : Prop} [Decidable p] [Decidable q]

/-- A Boolean result is 1 exactly when the test holds (41_bitwise_shift_compare.md R140). -/
theorem toNat_boolWord {b : Bool} (h : b = true ↔ p) : (boolWord b).toNat = if p then 1 else 0 := by
  by_cases holds : p
  · rw [if_pos holds, h.2 holds]
    rfl
  · rw [if_neg holds, Bool.eq_false_iff.2 (mt h.1 holds)]
    rfl

/-- A three-way result, read signed (41_bitwise_shift_compare.md R140). -/
theorem toInt_threeWay :
    (threeWay (decide p) (decide q)).toInt = if p then -1 else if q then 0 else 1 := by
  simp only [threeWay, decide_eq_true_eq]
  split_ifs <;> rfl

/-- The test of both limbs is equality of the patterns (41_bitwise_shift_compare.md R141). -/
theorem limbs_beq_iff (a b : Word) : (hi a == hi b && lo a == lo b) = true ↔ a = b := by
  rw [Bool.and_eq_true, beq_iff_eq, beq_iff_eq]
  refine ⟨fun ⟨high, low⟩ => limbs_ext high low, ?_⟩
  rintro rfl
  exact ⟨rfl, rfl⟩

end Results

/-- Settles O32, by the result of each test. -/
theorem equalityAndUnsignedComparisons : Obligations.EqualityAndUnsignedComparisons := by
  intro s rd rs1 rs2
  have differ (a b : Word) : (!(hi a == hi b && lo a == lo b)) = true ↔ a ≠ b := by
    rw [Bool.not_eq_true', ← Bool.not_eq_true, limbs_beq_iff]
  exact ⟨.of_encodeR2 rfl rfl, exec_binaryOp BitVec.toNat rfl (toNat_boolWord (limbs_beq_iff ..)),
    .of_encodeR2 rfl rfl, exec_binaryOp BitVec.toNat rfl (toNat_boolWord (differ ..)),
    .of_encodeR2 rfl rfl, exec_binaryOp BitVec.toNat rfl (toNat_boolWord decide_eq_true_iff),
    .of_encodeR2 rfl rfl, exec_binaryOp BitVec.toNat rfl (toNat_boolWord decide_eq_true_iff),
    .of_encodeR2 rfl rfl, exec_binaryOp BitVec.toNat rfl (toNat_boolWord decide_eq_true_iff),
    .of_encodeR2 rfl rfl, exec_binaryOp BitVec.toNat rfl (toNat_boolWord decide_eq_true_iff),
    .of_encodeR2 rfl rfl, exec_binaryOp BitVec.toInt rfl toInt_threeWay⟩

/-! ## Minimum and maximum -/

section MinMax
variable {α : Type} [LinearOrder α] (read : Word → α) (a b : Word)

theorem read_min : read (if read a ≤ read b then a else b) = min (read a) (read b) := by
  rw [apply_ite read, min_def]

theorem read_max : read (if read a ≥ read b then a else b) = max (read a) (read b) := by
  rw [apply_ite read, max_def']

end MinMax

/-- Settles O34, by the choice under either reading. -/
theorem minimumAndMaximum : Obligations.MinimumAndMaximum := by
  intro s rd rs1 rs2
  have signed : sVal = BitVec.toInt := funext sVal_eq_toInt
  refine ⟨.of_encodeR2 rfl rfl, exec_binaryOp BitVec.toNat rfl (read_min uVal ..),
    .of_encodeR2 rfl rfl, exec_binaryOp BitVec.toNat rfl (read_max uVal ..), ?_⟩
  rw [← signed]
  exact ⟨.of_encodeR2 rfl rfl, exec_binaryOp sVal rfl (read_min sVal ..),
    .of_encodeR2 rfl rfl, exec_binaryOp sVal rfl (read_max sVal ..)⟩

end Sys2Proof.Machine
end

section
/-! PROOFS. The family of 42_add_sub.md: the results of the additions and subtractions read unsigned,
the limb paths as the functions of the commands, the order of two values by the order of their limbs,
and the results read signed, which are congruent modulo `2^128` to those of the unsigned operands. -/

namespace Sys2Proof.Machine

/-! ## Sums and differences, read unsigned -/

section Unsigned
variable (a b : Word)

/-- The sum of two patterns, read unsigned (42_add_sub.md R160). -/
theorem uVal_addWord : uVal (addWord a b) = (uVal a + uVal b) % 2 ^ 128 :=
  uVal_pat_nat (uVal a + uVal b)

/-- The difference of two patterns, read unsigned (42_add_sub.md R161). -/
theorem uVal_subWord : (uVal (subWord a b) : Int) = ((uVal a : Int) - uVal b) % 2 ^ 128 :=
  uVal_pat _

/-- Property of 42_add_sub.md R168: the borrow takes back what the carry discarded. -/
theorem subWord_addWord : subWord (addWord a b) b = a := by
  apply uVal_inj
  have sum := uVal_addWord a b
  have difference := uVal_subWord (addWord a b) b
  have := uVal_lt a
  omega

end Unsigned

/-- Settles O35, by the unsigned reading of each result. -/
theorem additionAndSubtractionWrap : Obligations.AdditionAndSubtractionWrap := by
  intro s rd rs1 rs2
  exact ⟨.of_encodeR2 rfl rfl, exec_binaryOp BitVec.toNat rfl (uVal_addWord ..),
    .of_encodeR2 rfl rfl, exec_binaryOp (fun v => (uVal v : Int)) rfl (uVal_subWord ..),
    .of_encodeR1 rfl rfl, exec_unaryOp BitVec.toNat rfl (uVal_neg _),
    .of_encodeR1 rfl rfl, exec_unaryOp BitVec.toNat rfl (uVal_pat_nat (uVal (s.reg rs1) + 1)),
    .of_encodeR1 rfl rfl, exec_unaryOp (fun v => (uVal v : Int)) rfl (uVal_pat _)⟩

/-- Settles O36: the second command reads the sum, and the operand that the first one kept. -/
theorem subtractionUndoesAddition : Obligations.SubtractionUndoesAddition := by
  refine ⟨subWord_addWord, fun s rd rd' rs1 rs2 distinct => ⟨_, _, rfl, rfl, ?_⟩⟩
  have kept : (binaryOp addWord rd rs1 rs2 s).reg rs2 = s.reg rs2 :=
    s.reg_setReg_other _ _ _ distinct.symm
  obtain ⟨sum, -⟩ := binaryOp_spec addWord rd rs1 rs2 s
  obtain ⟨difference, -⟩ := binaryOp_spec subWord rd' rd rs2 (binaryOp addWord rd rs1 rs2 s)
  rw [difference, sum, kept, subWord_addWord]

/-! ## The adder and the subtractor -/

section Adder
variable (a b : Word)

/-- A low sum below its operand has wrapped around (42_add_sub.md R166). -/
theorem toNat_carry (x y : Limb) :
    (if (x + y).toNat < x.toNat then 1 else 0 : Limb).toNat = (x.toNat + y.toNat) / 2 ^ 64 := by
  rw [BitVec.toNat_add]
  split <;> simp only [BitVec.ofNat_eq_ofNat, BitVec.toNat_ofNat] <;> omega

/-- A borrow makes up for a low difference that has wrapped around (42_add_sub.md R167). -/
theorem toNat_borrow (x y : Limb) :
    (x - y).toNat + y.toNat = x.toNat + 2 ^ 64 * (if x.toNat < y.toNat then 1 else 0 : Limb).toNat := by
  rw [BitVec.toNat_sub]
  split <;> simp only [BitVec.ofNat_eq_ofNat, BitVec.toNat_ofNat] <;> omega

/-- The adder adds (42_add_sub.md R166). -/
theorem adderPath_eq : adderPath a b = addWord a b := by
  apply uVal_inj
  rw [uVal_addWord, adderPath, uVal_ofLimbs, BitVec.toNat_add, toNat_carry, BitVec.toNat_add,
    BitVec.toNat_add, uVal_limbs a, uVal_limbs b]
  omega

/-- The subtractor subtracts (42_add_sub.md R167). -/
theorem subtractorPath_eq : subtractorPath a b = subWord a b := by
  apply uVal_inj
  have difference := uVal_subWord a b
  have borrow := toNat_borrow (lo a) (lo b)
  rw [uVal_limbs a, uVal_limbs b] at difference
  rw [subtractorPath, uVal_ofLimbs, BitVec.toNat_sub (hi a - hi b), BitVec.toNat_sub (hi a)]
  omega

theorem subWord_zeroWord : subWord zeroWord b = neg b := by
  apply pat_congr
  rw [uVal_zeroWord]
  omega

/-- Negation is the complement plus one (42_add_sub.md R167). -/
theorem addWord_not_oneWord : addWord (~~~b) oneWord = neg b := by
  have complement : uVal (~~~b) = 2 ^ 128 - 1 - uVal b := BitVec.toNat_not
  have := uVal_lt b
  apply pat_congr
  rw [uVal_oneWord, complement]
  omega

theorem addWord_oneWord : addWord a oneWord = pat (uVal a + 1) := by
  rw [addWord, uVal_oneWord, Nat.cast_one]

theorem subWord_oneWord : subWord a oneWord = pat (uVal a - 1) := by
  rw [subWord, uVal_oneWord, Nat.cast_one]

end Adder

/-! ## The comparators -/

section Comparators
variable (a b : Word)

/-- Numbers made of a high and a low limb are ordered by the high limbs, then by the low ones. -/
theorem limbs_lt_iff (h k : Int) (l m : Limb) :
    h * 2 ^ 64 + l.toNat < k * 2 ^ 64 + m.toNat ↔ h < k ∨ h = k ∧ l.toNat < m.toNat := by
  omega

/-- The high limb carries the sign (00_scope.md R11). -/
theorem toInt_limbs : a.toInt = (hi a).toInt * 2 ^ 64 + (lo a).toNat := by
  have value := uVal_limbs a
  rw [uVal] at value
  have := (hi a).isLt
  rw [BitVec.toInt_eq_toNat_cond, BitVec.toInt_eq_toNat_cond]
  split <;> split <;> omega

theorem unsignedLessPath_iff : unsignedLessPath a b = true ↔ a.toNat < b.toNat := by
  have order := limbs_lt_iff (hi a).toNat (hi b).toNat (lo a) (lo b)
  simp only [unsignedLessPath, Bool.or_eq_true, Bool.and_eq_true, decide_eq_true_eq, beq_iff_eq]
  rw [← uVal, ← uVal, uVal_limbs a, uVal_limbs b, ← BitVec.toNat_inj]
  exact_mod_cast order.symm

theorem signedLessPath_iff : signedLessPath a b = true ↔ a.toInt < b.toInt := by
  simp only [signedLessPath, Bool.or_eq_true, Bool.and_eq_true, decide_eq_true_eq, beq_iff_eq]
  rw [toInt_limbs a, toInt_limbs b, limbs_lt_iff, s64_eq_toInt, s64_eq_toInt, BitVec.toInt_inj]

end Comparators

/-- Settles O37: the paths are the functions of the commands, and the comparators order the limbs. -/
theorem adderAndComparatorPathsAgree : Obligations.AdderAndComparatorPathsAgree := by
  intro a b
  simp only [adderPath_eq, subtractorPath_eq]
  exact ⟨uVal_addWord a b, uVal_subWord a b, subWord_zeroWord b, addWord_not_oneWord b,
    addWord_oneWord a, subWord_oneWord a, unsignedLessPath_iff a b, signedLessPath_iff a b⟩

/-! ## Square-and-multiply -/

/-- The invariant of the loop: the accumulator times the power that is left (43_multiply.md R184). -/
theorem powModBits_eq {m k base e acc : Nat} (exponent : e < 2 ^ k) (reduced : acc % m = acc) :
    powModBits m k base e acc = acc * base ^ e % m := by
  induction k generalizing base e acc with
  | zero =>
    obtain rfl : e = 0 := by omega
    rw [powModBits, pow_zero, mul_one, reduced]
  | succ k ih =>
    have bit : (if e % 2 = 1 then acc * base % m else acc) = acc * base ^ (e % 2) % m := by
      rcases Nat.mod_two_eq_zero_or_one e with even | odd
      · simp [even, reduced]
      · simp [odd]
    have square : (base * base % m) ^ (e / 2) ≡ (base * base) ^ (e / 2) [MOD m] :=
      (Nat.mod_modEq ..).pow _
    rw [powModBits, bit, ih (by omega) (Nat.mod_mod ..)]
    calc acc * base ^ (e % 2) % m * (base * base % m) ^ (e / 2) % m
        = acc * base ^ (e % 2) * (base * base) ^ (e / 2) % m := (Nat.mod_modEq ..).mul square
      _ = acc * base ^ (e % 2 + 2 * (e / 2)) % m := by rw [pow_add, pow_mul, sq, mul_assoc]
      _ = acc * base ^ e % m := by rw [Nat.mod_add_div]

theorem powMod_eq {x e m : Nat} (exponent : e < 2 ^ 128) : powMod x e m = x ^ e % m := by
  rw [powMod, powModBits_eq exponent (Nat.mod_mod ..)]
  exact ((Nat.mod_modEq 1 m).mul ((Nat.mod_modEq x m).pow e)).trans (by rw [one_mul])

/-! ## Results, read signed -/

section Signed
variable (a b : Word)

/-- Both readings of a pattern are congruent (00_scope.md R11). -/
theorem uVal_modEq_toInt : uVal a ≡ a.toInt [ZMOD 2 ^ 128] := by
  rw [← sVal_eq_toInt, Int.ModEq, sVal_emod]
  exact Int.emod_eq_of_lt (by positivity) (by exact_mod_cast uVal_lt a)

/-- The pattern of an integer read signed is the balanced residue of every integer congruent to it. -/
theorem toInt_pat_of_modEq {m n : Int} (h : m ≡ n [ZMOD 2 ^ 128]) :
    (pat m).toInt = Int.bmod n (2 ^ 128) := by
  rw [pat_congr h, pat, BitVec.toInt_ofInt]

theorem toInt_addWord : (addWord a b).toInt = Int.bmod (a.toInt + b.toInt) (2 ^ 128) :=
  toInt_pat_of_modEq ((uVal_modEq_toInt a).add (uVal_modEq_toInt b))

theorem toInt_subWord : (subWord a b).toInt = Int.bmod (a.toInt - b.toInt) (2 ^ 128) :=
  toInt_pat_of_modEq ((uVal_modEq_toInt a).sub (uVal_modEq_toInt b))

theorem toInt_neg : (neg a).toInt = Int.bmod (-a.toInt) (2 ^ 128) := by
  have zero : zeroWord.toInt = 0 := by decide
  rw [← subWord_zeroWord, toInt_subWord, zero, zero_sub]

theorem toInt_mulWord : (mulWord a b).toInt = Int.bmod (a.toInt * b.toInt) (2 ^ 128) := by
  rw [mulWord, Nat.cast_mul]
  exact toInt_pat_of_modEq ((uVal_modEq_toInt a).mul (uVal_modEq_toInt b))

theorem toInt_pat_pow (e : Nat) :
    (pat ((uVal a ^ e : Nat) : Int)).toInt = Int.bmod (a.toInt ^ e) (2 ^ 128) := by
  rw [Nat.cast_pow]
  exact toInt_pat_of_modEq ((uVal_modEq_toInt a).pow e)

/-- The power that the loop reduces is the pattern of the power (43_multiply.md R184). -/
theorem pat_powMod : pat (powMod (uVal a) (uVal b) (2 ^ 128)) = pat ((uVal a ^ uVal b : Nat) : Int) := by
  apply uVal_inj
  rw [powMod_eq (uVal_lt b), uVal_pat_nat, uVal_pat_nat, Nat.mod_mod]

/-- `POW` on an exponent that is not negative runs as a command with two sources. -/
theorem exec_pow_of_nonneg {s : State} {rd rs1 rs2 : Reg} (exponent : 0 ≤ (s.reg rs2).toInt) :
    exec (.pow rd rs1 rs2) s =
      .next (binaryOp (fun a b => pat (powMod (uVal a) (uVal b) (2 ^ 128))) rd rs1 rs2 s) := by
  have sign : ¬ isNeg (s.reg rs2) = true := by
    rw [isNeg_iff_toInt]
    omega
  rw [exec, execPow, if_neg sign]

end Signed

/-- Settles O40: every result is the pattern of an integer congruent to the signed one. -/
theorem signAgnosticCommandsAreTheSignedOperations :
    Obligations.SignAgnosticCommandsAreTheSignedOperations := by
  refine ⟨fun a b => ?_, fun s rd rs1 rs2 => ?_⟩
  · rw [sVal_eq_toInt, sVal_eq_toInt]
    exact pat_congr ((uVal_modEq_toInt a).mul (uVal_modEq_toInt b)).symm
  · have one := Int.ModEq.refl (n := 2 ^ 128) 1
    have source := uVal_modEq_toInt (s.reg rs1)
    refine ⟨exec_binaryOp BitVec.toInt rfl (toInt_addWord ..),
      exec_binaryOp BitVec.toInt rfl (toInt_subWord ..),
      exec_unaryOp BitVec.toInt rfl (toInt_neg _),
      exec_unaryOp BitVec.toInt rfl (toInt_pat_of_modEq (source.add one)),
      exec_unaryOp BitVec.toInt rfl (toInt_pat_of_modEq (source.sub one)),
      exec_binaryOp BitVec.toInt rfl (toInt_mulWord ..),
      exec_unaryOp BitVec.toInt rfl (toInt_pat_pow _ 2),
      exec_unaryOp BitVec.toInt rfl (toInt_pat_pow _ 3),
      fun exponent => exec_binaryOp BitVec.toInt (exec_pow_of_nonneg exponent) ?_⟩
    rw [pat_powMod, toInt_pat_pow, uVal]

end Sys2Proof.Machine
end

section
/-! PROOFS. The family of 43_multiply.md: the multiplier datapaths as exact products, by one law of the
schoolbook scheme for digits and for limbs, the truncating paths as those products modulo `2^128`, and
square-and-multiply through the loop of the command. -/

namespace Sys2Proof.Machine

/-! ## Commands -/

/-- Settles O38, by the unsigned reading of each product. -/
theorem truncatingProducts : Obligations.TruncatingProducts := by
  intro s rd rs1 rs2
  have smallOperand : uVal (pat ((uVal (s.reg rs1) * (lo (s.reg rs2)).toNat : Nat) : Int)) =
      uVal (s.reg rs1) * (uVal (s.reg rs2) % 2 ^ 64) % 2 ^ 128 := by
    rw [uVal_pat_nat, lo_toNat]
  exact ⟨.of_encodeR2 rfl rfl, exec_binaryOp BitVec.toNat rfl (uVal_pat_nat _),
    .of_encodeR2 rfl rfl, exec_binaryOp BitVec.toNat rfl smallOperand,
    .of_encodeR1 rfl rfl, exec_unaryOp BitVec.toNat rfl (uVal_pat_nat _),
    .of_encodeR1 rfl rfl, exec_unaryOp BitVec.toNat rfl (uVal_pat_nat _)⟩

/-- `POW` on a negative exponent enters the fault (43_multiply.md R184). -/
theorem exec_pow_of_neg {s : State} {rd rs1 rs2 : Reg} (exponent : (s.reg rs2).toInt < 0) :
    exec (.pow rd rs1 rs2) s = .next (s.raise .domainError (encode (.pow rd rs1 rs2))) := by
  rw [exec, execPow, if_pos ((isNeg_iff_toInt _).2 exponent)]

/-- Settles O41, by the sign of the exponent. -/
theorem powerWrapsAndRejectsNegativeExponent :
    Obligations.PowerWrapsAndRejectsNegativeExponent := by
  intro s rd rs1 rs2
  refine ⟨.of_encodeR2 rfl rfl,
    fun nonneg => exec_binaryOp BitVec.toNat (exec_pow_of_nonneg nonneg) ?_,
    fun negative => ⟨_, exec_pow_of_neg negative, s.raise_latches ..⟩⟩
  rw [pat_powMod]
  exact uVal_pat_nat _

/-! ## Exact products -/

/-- The schoolbook product of two numbers of two digits each in base `B`, from their four cross products
`p00`, `p01`, `p10`, `p11`: the middle lane carries into the high one (43_multiply.md R187, R188). -/
theorem schoolbook_eq {B x0 x1 y0 y1 p00 p01 p10 p11 mid : Nat} (h00 : p00 = x0 * y0)
    (h01 : p01 = x0 * y1) (h10 : p10 = x1 * y0) (h11 : p11 = x1 * y1)
    (lane : mid = p00 / B + p01 % B + p10 % B) :
    (p11 + p01 / B + p10 / B + mid / B) * (B * B) + (mid % B * B + p00 % B) =
      (x1 * B + x0) * (y1 * B + y0) := by
  have d00 := Nat.div_add_mod p00 B
  have d01 := Nat.div_add_mod p01 B
  have d10 := Nat.div_add_mod p10 B
  have dmid := Nat.div_add_mod mid B
  linear_combination B * (dmid + lane + d01 + d10 + h01 + h10) + d00 + h00 + B * B * h11

/-- A limb is its digits (00_scope.md R10). -/
theorem toNat_digits (x : Limb) : x.toNat = digit1 x * 2 ^ 32 + digit0 x := by
  have := x.isLt
  simp only [digit0, digit1, BitVec.extractLsb'_toNat, Nat.shiftRight_eq_div_pow]
  omega

/-- A high lane whose number fits in the value fits in its limb. -/
theorem uVal_ofLimbs_ofNat {h l n : Nat} (low : l < 2 ^ 64) (fits : n < 2 ^ 128)
    (lanes : h * 2 ^ 64 + l = n) :
    uVal (ofLimbs (BitVec.ofNat 64 h) (BitVec.ofNat 64 l)) = n := by
  rw [uVal_ofLimbs, BitVec.toNat_ofNat, BitVec.toNat_ofNat, Nat.mod_eq_of_lt low,
    Nat.mod_eq_of_lt (by omega), lanes]

/-- The 64 by 64 path multiplies (43_multiply.md R187). -/
theorem uVal_mul64Path (x y : Limb) : uVal (mul64Path x y) = x.toNat * y.toNat := by
  have fits : x.toNat * y.toNat < 2 ^ 64 * 2 ^ 64 := Nat.mul_lt_mul'' x.isLt y.isLt
  have product := schoolbook_eq (B := 2 ^ 32) (x0 := digit0 x) (x1 := digit1 x) (y0 := digit0 y)
    (y1 := digit1 y) rfl rfl rfl rfl rfl
  rw [← toNat_digits, ← toNat_digits] at product
  exact uVal_ofLimbs_ofNat (by omega) fits product

theorem toNat_append_limb {w : Nat} (h : BitVec w) (l : Limb) :
    (h ++ l).toNat = h.toNat * 2 ^ 64 + l.toNat := by
  rw [BitVec.toNat_append, Nat.shiftLeft_eq, Nat.mul_comm, Nat.two_pow_add_eq_or_of_lt l.isLt]

/-- A limb lane whose carry is added to the limb above it (43_multiply.md R188). -/
theorem toNat_append_carry (h s : Nat) :
    (BitVec.ofNat 64 (h + s / 2 ^ 64) ++ BitVec.ofNat 64 s).toNat = (h * 2 ^ 64 + s) % 2 ^ 128 := by
  rw [toNat_append_limb, BitVec.toNat_ofNat, BitVec.toNat_ofNat]
  omega

/-- The widening path multiplies: the product fits in 256 bits, so the top limb loses nothing
(43_multiply.md R188). -/
theorem toNat_mulWidePath (a b : Word) : (mulWidePath a b).toNat = uVal a * uVal b := by
  have fits : uVal a * uVal b < 2 ^ 128 * 2 ^ 128 := Nat.mul_lt_mul'' (uVal_lt a) (uVal_lt b)
  have product := schoolbook_eq (B := 2 ^ 64) (uVal_mul64Path (lo a) (lo b))
    (uVal_mul64Path (lo a) (hi b)) (uVal_mul64Path (hi a) (lo b)) (uVal_mul64Path (hi a) (hi b)) rfl
  rw [← uVal_limbs, ← uVal_limbs, ← pow_add] at product
  simp only [mulWidePath]
  rw [toNat_append_limb, toNat_append_limb, toNat_append_carry]
  simp only [BitVec.toNat_ofNat, lo_toNat, hi_toNat]
  rw [Nat.mod_eq_of_lt (b := 2 ^ 128) (by omega), ← product]
  linear_combination 2 ^ 128 * Nat.div_add_mod (uVal (mul64Path (hi a) (hi b))) (2 ^ 64)

/-! ## Truncated products -/

section Truncated
variable (a b : Word)

/-- A limb added to the high limb counts for `2^64` times its number; what leaves bit 127 is lost. -/
theorem uVal_ofLimbs_hi_add (p : Word) (t : Limb) :
    uVal (ofLimbs (hi p + t) (lo p)) = (uVal p + t.toNat * 2 ^ 64) % 2 ^ 128 := by
  rw [uVal_ofLimbs, BitVec.toNat_add, uVal_limbs p]
  omega

/-- The 128 by 64 path multiplies modulo `2^128` (43_multiply.md R189). -/
theorem uVal_mul128By64Path (k : Limb) :
    uVal (mul128By64Path a k) = uVal a * k.toNat % 2 ^ 128 := by
  have product : uVal a * k.toNat =
      (lo a).toNat * k.toNat + (hi a).toNat * k.toNat * 2 ^ 64 := by
    rw [uVal_limbs a]
    ring
  rw [mul128By64Path, uVal_ofLimbs_hi_add, uVal_mul64Path, BitVec.toNat_mul, product]
  omega

/-- The 128 by 128 path multiplies modulo `2^128`: the product of the high limbs stands above bit 127
(43_multiply.md R190). -/
theorem mul128Path_eq : mul128Path a b = mulWord a b := by
  apply uVal_inj
  have product : uVal a * uVal b = (lo a).toNat * (lo b).toNat +
      ((hi a).toNat * (lo b).toNat + (lo a).toNat * (hi b).toNat) * 2 ^ 64 +
        (hi a).toNat * (hi b).toNat * 2 ^ 128 := by
    rw [uVal_limbs a, uVal_limbs b]
    ring
  rw [mul128Path, BitVec.add_assoc, uVal_ofLimbs_hi_add, uVal_mul64Path, BitVec.toNat_add,
    BitVec.toNat_mul, BitVec.toNat_mul, mulWord, uVal_pat_nat, product]
  omega

theorem uVal_mul128Path : uVal (mul128Path a b) = uVal a * uVal b % 2 ^ 128 := by
  rw [mul128Path_eq, mulWord, uVal_pat_nat]

/-- Two truncating products in a row (43_multiply.md R190). -/
theorem uVal_cubePath : uVal (cubePath a) = uVal a ^ 3 % 2 ^ 128 := by
  rw [cubePath, uVal_mul128Path, uVal_mul128Path, Nat.mod_mul_mod, pow_three']

/-- The loop of the datapath is the loop of the command: each of its products is reduced modulo
`2^128`. -/
theorem uVal_powPathBits (k : Nat) (base : Word) (e : Nat) (acc : Word) :
    uVal (powPathBits k base e acc) = powModBits (2 ^ 128) k (uVal base) e (uVal acc) := by
  induction k generalizing base e acc with
  | zero => rfl
  | succ k ih =>
    rw [powPathBits, powModBits, ih, uVal_mul128Path, apply_ite uVal, uVal_mul128Path]

/-- Square-and-multiply raises to the power (43_multiply.md R190). -/
theorem uVal_powPath : uVal (powPath a b) = uVal a ^ uVal b % 2 ^ 128 := by
  rw [powPath, uVal_powPathBits, uVal_oneWord, powModBits_eq (uVal_lt b) rfl, one_mul]

end Truncated

/-- Settles O42, path by path. -/
theorem multiplierPathsAgree : Obligations.MultiplierPathsAgree :=
  ⟨uVal_mul64Path, toNat_mulWidePath, uVal_mul128By64Path, uVal_mul128Path, uVal_cubePath,
    uVal_powPath⟩

end Sys2Proof.Machine
end

section
/-! PROOFS. The family of 44_divide.md: the commands, which test their divisor; the schoolbook loop and the
loop of Knuth Algorithm D, each of which takes one digit of the quotient off the number that is left; and
the engine, which takes each path where it divides. -/

namespace Sys2Proof.Machine

/-! ## Commands that test their divisor, and commands of format R2D -/

section Divisor
variable {i : Instr} {rd rd2 rs1 rs2 r : Reg} {s t : State}

/-- A command of format R2D has the R2D word of its opcode (30_encoding.md R68). -/
theorem HasWord.of_encodeR2D (wf : wellFormed i = true)
    (word : encode i = encodeR2D (opcode i) rd rd2 rs1 rs2) :
    HasWord i (wordR2D (opcode i).toNat rd rd2 rs1 rs2) := by
  have number := HasWord.of_wellFormed wf
  rwa [word, encodeR2D_toNat] at number

/-- A command that tests its divisor runs when the divisor is not zero. -/
theorem exec_of_divisor_ne_zero
    (run : exec i s = .next (if isZero (s.reg r) then s.raise .divideByZero (encode i) else t))
    (nonzero : (s.reg r).toNat ≠ 0) : exec i s = .next t := by
  rw [run, if_neg (mt (isZero_iff _).1 nonzero)]

/-- A command that tests its divisor enters the fault when the divisor is zero. -/
theorem exec_of_divisor_eq_zero
    (run : exec i s = .next (if isZero (s.reg r) then s.raise .divideByZero (encode i) else t))
    (zero : (s.reg r).toNat = 0) :
    ∃ t, exec i s = .next t ∧ Latches .divideByZero (encode i) s t := by
  rw [if_pos ((isZero_iff _).2 zero)] at run
  exact ⟨_, run, s.raise_latches ..⟩

theorem uVal_udivWord (a b : Word) : uVal (udivWord a b) = uVal a / uVal b :=
  uVal_pat_of_lt ((Nat.div_le_self ..).trans_lt (uVal_lt a))

theorem uVal_uremWord (a b : Word) : uVal (uremWord a b) = uVal a % uVal b :=
  uVal_pat_of_lt ((Nat.mod_le ..).trans_lt (uVal_lt a))

/-- `U.DIVREM` with different destinations is a command that tests its divisor. -/
theorem exec_uDivRem_of_ne (distinct : rd ≠ rd2) :
    exec (.uDivRem rd rd2 rs1 rs2) s = .next (if isZero (s.reg rs2) then
      s.raise .divideByZero (encode (.uDivRem rd rd2 rs1 rs2))
      else pairOp udivWord uremWord rd rd2 rs1 rs2 s) := by
  rw [exec, execUDivRem, if_neg distinct]

theorem exec_uDivRem_of_eq (same : rd = rd2) : exec (.uDivRem rd rd2 rs1 rs2) s =
    .next (s.raise .illegalCommand (encode (.uDivRem rd rd2 rs1 rs2))) := by
  rw [exec, execUDivRem, if_pos same]

end Divisor

/-- Settles O43, by the test of the divisor and the unsigned reading of each result. -/
theorem unsignedQuotientAndRemainder : Obligations.UnsignedQuotientAndRemainder := by
  intro s rd rs1 rs2
  refine ⟨.of_encodeR2 rfl rfl, fun nonzero => ?_, exec_of_divisor_eq_zero rfl,
    .of_encodeR2 rfl rfl, fun nonzero => ?_, exec_of_divisor_eq_zero rfl⟩
  · exact exec_binaryOp BitVec.toNat (exec_of_divisor_ne_zero rfl nonzero) (uVal_udivWord ..)
  · obtain ⟨t, run, remainder, frame⟩ := exec_binaryOp BitVec.toNat
      (exec_of_divisor_ne_zero (i := .uRem rd rs1 rs2) rfl nonzero) (uVal_uremWord ..)
    exact ⟨t, run, remainder, remainder.trans (Nat.mod_eq_sub_div_mul ..), frame⟩

/-- Settles O44: the two results are written as a pair, once neither fault is entered. -/
theorem unsignedDivRemPair : Obligations.UnsignedDivRemPair := by
  intro s rd rd2 rs1 rs2
  refine ⟨fun distinct => .of_encodeR2D (decide_eq_true distinct) rfl, fun distinct nonzero => ?_,
    fun distinct => exec_of_divisor_eq_zero (exec_uDivRem_of_ne distinct),
    fun same => ⟨_, exec_uDivRem_of_eq same, s.raise_latches ..⟩⟩
  have run := exec_of_divisor_ne_zero (exec_uDivRem_of_ne (rs1 := rs1) distinct) nonzero
  obtain ⟨quotient, remainder, frame⟩ := pairOp_spec udivWord uremWord rd rd2 rs1 rs2 s distinct
  replace quotient := (congrArg uVal quotient).trans (uVal_udivWord ..)
  replace remainder := (congrArg uVal remainder).trans (uVal_uremWord ..)
  simp only [uVal] at quotient remainder
  refine ⟨_, run, quotient, remainder, ?_, ?_, frame⟩
  · rw [quotient, remainder, Nat.div_add_mod']
  · rw [remainder]
    exact Nat.mod_lt _ (Nat.pos_of_ne_zero nonzero)

/-! ## Digits -/

section Digits
variable {a v n i j : Nat}

theorem radix_pos : 0 < radix := by decide

theorem radix_pow (n : Nat) : radix ^ n = 2 ^ (32 * n) := (pow_mul 2 32 n).symm

/-- The digits below place `i + 1` are digit `i` and the digits below it. -/
theorem mod_radix_pow_succ (a i : Nat) : a % radix ^ (i + 1) = digit a i * radix ^ i + a % radix ^ i := by
  rw [pow_succ, Nat.mod_mul, digit, mul_comm, add_comm]

/-- The digits from place `i` on are digit `i` and the digits above it. -/
theorem div_radix_pow (a i : Nat) : a / radix ^ i = a / radix ^ (i + 1) * radix + digit a i := by
  rw [pow_succ, ← Nat.div_div_eq_div_mul, digit, Nat.div_add_mod']

/-- The top digit of a number is all that stands from its place on. -/
theorem digit_of_lt (h : a < radix ^ (i + 1)) : digit a i = a / radix ^ i :=
  Nat.mod_eq_of_lt (Nat.div_lt_of_lt_mul (by rwa [← pow_succ]))

/-- A number has as many digits as its digit count says. -/
theorem lt_radix_pow_digitCount (v : Nat) : v < radix ^ digitCount v := by
  rw [radix_pow, ← bitlen_le_iff, digitCount]
  omega

/-- A number whose digit count exceeds `n` does not fit in `n` digits. -/
theorem radix_pow_le_of_lt_digitCount (h : n < digitCount v) : radix ^ n ≤ v := by
  rw [radix_pow, ← not_lt, ← bitlen_le_iff]
  rw [digitCount] at h
  omega

end Digits

/-! ## The schoolbook loop (44_divide.md R216) -/

section Schoolbook
variable {a v : Nat}

/-- One digit of the loop. The radix is a variable in this proof, as the kernel would count up to `2^32`
where it compares the two sides with the number in place. -/
theorem schoolbookLoop_succ (i r quot : Nat) : schoolbookLoop a v (i + 1) r quot =
    schoolbookLoop a v i ((r * radix + digit a i) % v)
      (quot + (r * radix + digit a i) / v * radix ^ i) := by
  delta schoolbookLoop schoolbookLoop._f
  generalize radix = B
  rfl

/-- The loop divides the number that is left: the running remainder and the digits still to come. -/
theorem schoolbookLoop_eq (pos : 0 < v) (i r quot : Nat) (reduced : r < v) :
    schoolbookLoop a v i r quot =
      (quot + (r * radix ^ i + a % radix ^ i) / v, (r * radix ^ i + a % radix ^ i) % v) := by
  induction i generalizing r quot with
  | zero =>
    rw [pow_zero, mul_one, Nat.mod_one, add_zero, Nat.div_eq_of_lt reduced, Nat.mod_eq_of_lt reduced]
    rfl
  | succ i ih =>
    have left : r * radix ^ (i + 1) + a % radix ^ (i + 1) =
        (r * radix + digit a i) % v * radix ^ i + a % radix ^ i
          + v * ((r * radix + digit a i) / v * radix ^ i) := by
      rw [mod_radix_pow_succ]
      linear_combination radix ^ i * (Nat.div_add_mod (r * radix + digit a i) v).symm
    rw [schoolbookLoop_succ, ih _ _ (Nat.mod_lt _ pos), left, Nat.add_mul_div_left _ _ pos,
      Nat.add_mul_mod_self_left, add_assoc, add_comm (_ / v * _)]

/-- The digits that the path processes are all digits of the dividend. -/
theorem schoolbookPath_eq (fits : a < 2 ^ 128) (pos : 0 < v) :
    schoolbookPath a v = (a / v, a % v) := by
  have four : a < radix ^ 4 := fits
  have processed : a % radix ^ (if digit a 3 = 0 then 3 else 4) = a := by
    apply Nat.mod_eq_of_lt
    split
    next top =>
      rw [digit_of_lt four] at top
      exact (Nat.div_eq_zero_iff_lt (by decide)).1 top
    next => exact four
  rw [schoolbookPath, schoolbookLoop_eq pos _ _ _ pos, processed, zero_mul, zero_add, zero_add]

end Schoolbook

/-! ## The digit estimate of Knuth Algorithm D (44_divide.md R217, step D3) -/

/-- What the estimate of one quotient digit sees of the normalised divisor `vv` and of the window `w`, all
but the digits that count for less than `P`: `vTop` and `vNext` are the top two digits of the divisor,
`num` the top two and `uNext` the third one of the window, whose quotient is one digit. -/
structure Leading (P vv w vTop vNext num uNext : Nat) : Prop where
  scale_pos : 0 < P
  divisor : vv / P = vTop * radix + vNext
  window : w / P = num * radix + uNext
  next_lt : vNext < radix
  third_lt : uNext < radix
  normalised : radix ≤ 2 * vTop
  window_lt : w < vv * radix

section Estimate
variable {P vv w vTop vNext num uNext qhat rhat : Nat}

theorem Leading.quotient_lt (h : Leading P vv w vTop vNext num uNext) : w / vv < radix :=
  Nat.div_lt_of_lt_mul h.window_lt

theorem Leading.divisor_pos (h : Leading P vv w vTop vNext num uNext) : 0 < vv :=
  Nat.pos_of_mul_pos_right (Nat.zero_lt_of_lt h.window_lt)

theorem Leading.top_pos (h : Leading P vv w vTop vNext num uNext) : 0 < vTop := by
  have := h.normalised
  have := radix_pos
  omega

/-- The divisor is not below what its top two digits count for. -/
theorem Leading.le_divisor (h : Leading P vv w vTop vNext num uNext) :
    (vTop * radix + vNext) * P ≤ vv := by
  rw [← h.divisor]
  exact Nat.div_mul_le_self ..

/-- The digits of the divisor that the estimate does not see count for less than `P`. -/
theorem Leading.divisor_lt (h : Leading P vv w vTop vNext num uNext) :
    vv < (vTop * radix + vNext + 1) * P := by
  rw [← h.divisor, mul_comm]
  exact Nat.lt_mul_div_succ _ h.scale_pos

theorem Leading.num_le (h : Leading P vv w vTop vNext num uNext) : num ≤ vTop * radix + vNext := by
  have window : w / P < (vTop * radix + vNext + 1) * radix := by
    rw [Nat.div_lt_iff_lt_mul h.scale_pos]
    calc w < vv * radix := h.window_lt
      _ ≤ (vTop * radix + vNext + 1) * P * radix := Nat.mul_le_mul_right _ h.divisor_lt.le
      _ = (vTop * radix + vNext + 1) * radix * P := by ring
  rw [h.window] at window
  exact Nat.lt_succ_iff.1 (Nat.lt_of_mul_lt_mul_right ((Nat.le_add_right ..).trans_lt window))

/-- An estimate that meets the test of step D3 is too large. -/
theorem Leading.quotient_lt_of_test (h : Leading P vv w vTop vNext num uNext)
    (value : num = qhat * vTop + rhat)
    (test : qhat ≥ radix ∨ qhat * vNext > rhat * radix + uNext) : w / vv < qhat := by
  rcases test with large | product
  · exact h.quotient_lt.trans_le large
  · have seen : w / P < qhat * (vTop * radix + vNext) := by
      rw [h.window, value]
      linarith
    rw [Nat.div_lt_iff_lt_mul h.divisor_pos]
    calc w < qhat * (vTop * radix + vNext) * P := (Nat.div_lt_iff_lt_mul h.scale_pos).1 seen
      _ ≤ qhat * vv := by
        rw [mul_assoc]
        exact Nat.mul_le_mul_left _ h.le_divisor

/-- An estimate that passes the test of step D3 is too large by one at most: the digits that it does not
see count for less than one divisor. -/
theorem Leading.le_quotient_of_not_test (h : Leading P vv w vTop vNext num uNext)
    (value : num = qhat * vTop + rhat)
    (passed : ¬ (qhat ≥ radix ∨ qhat * vNext > rhat * radix + uNext)) : qhat ≤ w / vv + 1 := by
  obtain ⟨isDigit, product⟩ := not_or.1 passed
  have seen : qhat * (vTop * radix + vNext) ≤ w / P := by
    rw [h.window, value]
    linarith
  cases qhat with
  | zero => exact Nat.zero_le _
  | succ q =>
    have small : q ≤ vTop * radix + vNext := by
      have := Nat.le_mul_of_pos_left radix h.top_pos
      omega
    rw [Nat.add_le_add_iff_right, Nat.le_div_iff_mul_le h.divisor_pos]
    calc q * vv ≤ q * ((vTop * radix + vNext + 1) * P) := Nat.mul_le_mul_left _ h.divisor_lt.le
      _ = (q * (vTop * radix + vNext) + q) * P := by ring
      _ ≤ (q * (vTop * radix + vNext) + (vTop * radix + vNext)) * P := by gcongr
      _ = (q + 1) * (vTop * radix + vNext) * P := by ring
      _ ≤ w := (Nat.le_div_iff_mul_le h.scale_pos).1 seen

/-- An estimate whose remainder is no digit passes the test of step D3, so the correction may stop. -/
theorem Leading.not_test_of_radix_le (h : Leading P vv w vTop vNext num uNext)
    (value : num = qhat * vTop + rhat) (large : radix ≤ rhat) :
    ¬ (qhat ≥ radix ∨ qhat * vNext > rhat * radix + uNext) := by
  have isDigit : qhat < radix := by
    by_contra! big
    have := Nat.mul_le_mul_left vTop big
    have := h.num_le
    have := h.next_lt
    linarith
  have product : qhat * vNext ≤ rhat * radix := Nat.mul_le_mul (isDigit.le.trans large) h.next_lt.le
  omega

/-- The first estimate is not below the quotient digit. -/
theorem Leading.quotient_le_first (h : Leading P vv w vTop vNext num uNext) :
    w / vv ≤ num / vTop := by
  have seen : w / vv * (vTop * radix + vNext) ≤ num * radix + uNext := by
    rw [← h.window, Nat.le_div_iff_mul_le h.scale_pos, mul_assoc]
    exact (Nat.mul_le_mul_left _ h.le_divisor).trans (Nat.div_mul_le_self ..)
  have top : w / vv * vTop * radix < (num + 1) * radix := by
    calc w / vv * vTop * radix ≤ w / vv * (vTop * radix + vNext) := by
          rw [mul_assoc]
          exact Nat.mul_le_mul_left _ (Nat.le_add_right ..)
      _ ≤ num * radix + uNext := seen
      _ < (num + 1) * radix := by
        rw [add_one_mul]
        exact Nat.add_lt_add_left h.third_lt _
  rw [Nat.le_div_iff_mul_le h.top_pos]
  exact Nat.lt_succ_iff.1 (Nat.lt_of_mul_lt_mul_right top)

/-- For a normalised divisor the first estimate is too large by two at most. -/
theorem Leading.first_le (h : Leading P vv w vTop vNext num uNext) :
    num / vTop ≤ w / vv + 2 := by
  rcases Nat.lt_or_ge (num / vTop) 2 with small | large
  · exact small.le.trans (Nat.le_add_left ..)
  · obtain ⟨q, first⟩ := Nat.exists_eq_add_of_le' large
    have below : q + 2 < radix + 2 := by
      rw [← first, Nat.div_lt_iff_lt_mul h.top_pos]
      linarith [h.num_le, h.next_lt, h.normalised]
    have top : (q + 2) * vTop ≤ num := first ▸ Nat.div_mul_le_self ..
    have normalised : q ≤ 2 * vTop := by
      have := h.normalised
      omega
    rw [first, Nat.add_le_add_iff_right, Nat.le_div_iff_mul_le h.divisor_pos]
    calc q * vv ≤ q * ((vTop * radix + vNext + 1) * P) := Nat.mul_le_mul_left _ h.divisor_lt.le
      _ ≤ q * ((vTop * radix + radix) * P) := by
        rw [add_assoc]
        gcongr
        exact h.next_lt
      _ = (q * vTop + q) * radix * P := by ring
      _ ≤ (q * vTop + 2 * vTop) * radix * P := by gcongr
      _ = (q + 2) * vTop * radix * P := by ring
      _ ≤ (num * radix + uNext) * P := by
        gcongr
        exact (Nat.mul_le_mul_right _ top).trans (Nat.le_add_right ..)
      _ ≤ w := h.window ▸ Nat.div_mul_le_self ..

/-- The correction keeps an estimate that is not below the quotient digit, and leaves it too large by one
at most when it may run as often as the estimate was too large. -/
theorem Leading.correctEstimate_bounds (h : Leading P vv w vTop vNext num uNext) (fuel : Nat)
    (value : num = qhat * vTop + rhat) (lower : w / vv ≤ qhat) (upper : qhat ≤ w / vv + fuel) :
    w / vv ≤ correctEstimate vTop vNext uNext fuel qhat rhat ∧
      correctEstimate vTop vNext uNext fuel qhat rhat ≤ w / vv + 1 := by
  induction fuel generalizing qhat rhat with
  | zero => exact ⟨lower, upper.trans (Nat.le_succ _)⟩
  | succ fuel ih =>
    rw [correctEstimate]
    split
    next test =>
      have above := h.quotient_lt_of_test value test
      have value' : num = (qhat - 1) * vTop + (rhat + vTop) := by
        obtain ⟨q, rfl⟩ := Nat.exists_eq_add_of_lt above
        rw [value, Nat.add_sub_cancel]
        ring
      split
      next large =>
        exact ⟨Nat.le_sub_one_of_lt above,
          h.le_quotient_of_not_test value' (h.not_test_of_radix_le value' large)⟩
      next => exact ih value' (Nat.le_sub_one_of_lt above) (Nat.sub_le_iff_le_add.2 upper)
    next passed => exact ⟨lower, h.le_quotient_of_not_test value passed⟩

end Estimate

/-! ## One quotient digit (44_divide.md R217, steps D3 to D6) -/

/-- The estimate of the quotient digit at place `j`, after its correction. -/
def digitEstimate (vv n uu j : Nat) : Nat :=
  let num := digit uu (j + n) * radix + digit uu (j + n - 1)
  correctEstimate (digit vv (n - 1)) (digit vv (n - 2)) (digit uu (j + n - 2)) 2
    (num / digit vv (n - 1)) (num % digit vv (n - 1))

section Digit
variable {vv k uu j : Nat}

/-- The top digits of a normalised divisor of `k + 2` digits and of the window at place `j`. -/
theorem leading_digits (normalised : radix ^ (k + 2) ≤ 2 * vv) (fits : vv < radix ^ (k + 2))
    (bounded : uu < vv * radix ^ (j + 1)) :
    Leading (radix ^ k) vv (uu / radix ^ j) (digit vv (k + 1)) (digit vv k)
      (digit uu (j + (k + 2)) * radix + digit uu (j + (k + 1))) (digit uu (j + k)) where
  scale_pos := Nat.pow_pos radix_pos
  divisor := by rw [div_radix_pow, digit_of_lt fits]
  window := by
    have top : uu < radix ^ (j + (k + 2) + 1) := by
      calc uu < vv * radix ^ (j + 1) := bounded
        _ ≤ radix ^ (k + 2) * radix ^ (j + 1) := Nat.mul_le_mul_right _ fits.le
        _ = radix ^ (j + (k + 2) + 1) := by ring
    rw [Nat.div_div_eq_div_mul, ← pow_add, div_radix_pow, add_assoc j k 1, div_radix_pow,
      add_assoc j (k + 1) 1, digit_of_lt top]
  next_lt := Nat.mod_lt _ radix_pos
  third_lt := Nat.mod_lt _ radix_pos
  normalised := by
    rw [digit_of_lt fits]
    have even : 2 ∣ radix := by decide
    have below : radix * radix ^ (k + 1) < 2 * (vv / radix ^ (k + 1) + 1) * radix ^ (k + 1) := by
      calc radix * radix ^ (k + 1) = radix ^ (k + 2) := (pow_succ' ..).symm
        _ ≤ 2 * vv := normalised
        _ < 2 * (radix ^ (k + 1) * (vv / radix ^ (k + 1) + 1)) := by
          gcongr
          exact Nat.lt_mul_div_succ _ (Nat.pow_pos radix_pos)
        _ = 2 * (vv / radix ^ (k + 1) + 1) * radix ^ (k + 1) := by ring
    have := Nat.lt_of_mul_lt_mul_right below
    omega
  window_lt := by
    rw [Nat.div_lt_iff_lt_mul (Nat.pow_pos radix_pos), mul_assoc, ← pow_succ']
    exact bounded

/-- Steps D4 to D6, for the corrected estimate. -/
theorem knuthDigit_eq_ite (vv n uu j : Nat) : knuthDigit vv n uu j =
    if uu / radix ^ j % radix ^ (n + 1) < digitEstimate vv n uu j * vv then
      (digitEstimate vv n uu j - 1, uu - uu / radix ^ j % radix ^ (n + 1) * radix ^ j +
        (uu / radix ^ j % radix ^ (n + 1) + radix ^ (n + 1) - digitEstimate vv n uu j * vv + vv) %
          radix ^ (n + 1) * radix ^ j)
    else (digitEstimate vv n uu j, uu - uu / radix ^ j % radix ^ (n + 1) * radix ^ j +
      (uu / radix ^ j % radix ^ (n + 1) - digitEstimate vv n uu j * vv) * radix ^ j) := by
  rw [knuthDigit, digitEstimate]

/-- Step D6: the window of which one divisor too many is taken off modulo `m`, and the divisor added back
modulo `m`, is the remainder. -/
theorem add_back_eq {w vv m : Nat} (pos : 0 < vv) (fits : (w / vv + 1) * vv ≤ m) :
    (w + m - (w / vv + 1) * vv + vv) % m = w % vv := by
  have law := Nat.div_add_mod' w vv
  have reduced := Nat.mod_lt w pos
  rw [add_one_mul] at fits ⊢
  rw [show w + m - (w / vv * vv + vv) + vv = w % vv + m by omega, Nat.add_mod_right,
    Nat.mod_eq_of_lt (by omega)]

/-- One digit of Algorithm D is one digit of the long division: the corrected estimate is the quotient
digit, or one more, and then the subtraction borrows and step D6 adds the divisor back. -/
theorem knuthDigit_eq (normalised : radix ^ (k + 2) ≤ 2 * vv) (fits : vv < radix ^ (k + 2))
    (bounded : uu < vv * radix ^ (j + 1)) :
    knuthDigit vv (k + 2) uu j = (uu / (radix ^ j * vv), uu % (radix ^ j * vv)) := by
  have leading := leading_digits normalised fits bounded
  have estimate : uu / radix ^ j / vv ≤ digitEstimate vv (k + 2) uu j ∧
      digitEstimate vv (k + 2) uu j ≤ uu / radix ^ j / vv + 1 :=
    leading.correctEstimate_bounds 2 (Nat.div_add_mod' ..).symm leading.quotient_le_first
      leading.first_le
  have rest : uu - uu / radix ^ j * radix ^ j = uu % radix ^ j := (Nat.mod_eq_sub_div_mul ..).symm
  have window : uu / radix ^ j % radix ^ (k + 2 + 1) = uu / radix ^ j :=
    Nat.mod_eq_of_lt (leading.window_lt.trans_le (Nat.mul_le_mul_right _ fits.le))
  have borrow_iff : uu / radix ^ j < digitEstimate vv (k + 2) uu j * vv ↔
      digitEstimate vv (k + 2) uu j = uu / radix ^ j / vv + 1 := by
    rw [← Nat.div_lt_iff_lt_mul leading.divisor_pos]
    omega
  rw [knuthDigit_eq_ite, window, rest, Nat.mod_mul, ← Nat.div_div_eq_div_mul, mul_comm (radix ^ j)]
  split
  next borrow =>
    have shifted : (uu / radix ^ j / vv + 1) * vv ≤ radix ^ (k + 2 + 1) := by
      rw [pow_succ']
      exact Nat.mul_le_mul leading.quotient_lt fits.le
    rw [borrow_iff.1 borrow, add_back_eq leading.divisor_pos shifted, Nat.add_sub_cancel]
  next noBorrow =>
    have exactly : digitEstimate vv (k + 2) uu j = uu / radix ^ j / vv := by
      have := mt borrow_iff.2 noBorrow
      omega
    rw [exactly, ← Nat.mod_eq_sub_div_mul]

end Digit

/-! ## The loop and the path (44_divide.md R217, steps D1, D2 and D8) -/

section Knuth
variable {vv k a v : Nat}

/-- One digit of the loop; the radix is a variable for the kernel's sake, as in `schoolbookLoop_succ`. -/
theorem knuthLoop_succ (vv n j uu quot : Nat) : knuthLoop vv n (j + 1) uu quot =
    knuthLoop vv n j (knuthDigit vv n uu j).2 (quot + (knuthDigit vv n uu j).1 * radix ^ j) := by
  delta knuthLoop knuthLoop._f
  generalize radix = B
  rfl

/-- The loop divides the number that is left. -/
theorem knuthLoop_eq (normalised : radix ^ (k + 2) ≤ 2 * vv) (fits : vv < radix ^ (k + 2))
    (j uu quot : Nat) (bounded : uu < vv * radix ^ j) :
    knuthLoop vv (k + 2) j uu quot = (quot + uu / vv, uu % vv) := by
  have pos : 0 < vv := Nat.pos_of_mul_pos_right (Nat.zero_lt_of_lt bounded)
  induction j generalizing uu quot with
  | zero =>
    rw [pow_zero, mul_one] at bounded
    rw [Nat.div_eq_of_lt bounded, Nat.mod_eq_of_lt bounded]
    rfl
  | succ j ih =>
    have left : uu % (radix ^ j * vv) + vv * (uu / (radix ^ j * vv) * radix ^ j) = uu := by
      linear_combination Nat.div_add_mod uu (radix ^ j * vv)
    have reduced : uu % (radix ^ j * vv) < vv * radix ^ j :=
      mul_comm vv _ ▸ Nat.mod_lt _ (Nat.mul_pos pos (Nat.pow_pos radix_pos))
    rw [knuthLoop_succ, knuthDigit_eq normalised fits bounded, ih _ _ reduced]
    conv_rhs => rw [← left, Nat.add_mul_div_left _ _ pos, Nat.add_mul_mod_self_left]
    rw [add_assoc, add_comm (_ / vv)]

/-- The shift of step D1 brings the top bit of a digit to the top of the digit. -/
theorem clz32_bounds {d : Nat} (pos : 0 < d) (isDigit : d < radix) :
    (d + 1) * 2 ^ clz32 d ≤ radix ∧ radix ≤ 2 * (d * 2 ^ clz32 d) := by
  have upper : d + 1 ≤ 2 ^ bitlen d := (bitlen_le_iff ..).1 le_rfl
  obtain ⟨l, length⟩ : ∃ l, bitlen d = l + 1 := by
    refine Nat.exists_eq_succ_of_ne_zero fun empty => ?_
    rw [empty] at upper
    omega
  have lower : 2 ^ l ≤ d := by
    rw [← not_lt, ← bitlen_le_iff]
    omega
  have scale : 2 ^ (l + 1) * 2 ^ clz32 d = radix := by
    have : bitlen d ≤ 32 := (bitlen_le_iff ..).2 isDigit
    rw [clz32, ← pow_add, radix]
    congr 1
    omega
  rw [length] at upper
  constructor
  · exact (Nat.mul_le_mul_right _ upper).trans_eq scale
  · rw [← scale, pow_succ', mul_assoc]
    gcongr

/-- The divisor after step D1: its top digit is half the radix or more, and it has the same digits. -/
theorem normalised_bounds {n : Nat} (lower : radix ^ n ≤ v) (upper : v < radix ^ (n + 1)) :
    radix ^ (n + 1) ≤ 2 * (v * 2 ^ clz32 (digit v n)) ∧ v * 2 ^ clz32 (digit v n) < radix ^ (n + 1) := by
  have unit : 0 < radix ^ n := Nat.pow_pos radix_pos
  obtain ⟨fits, normalised⟩ := clz32_bounds (d := digit v n)
    (by rw [digit_of_lt upper]; exact Nat.div_pos lower unit) (Nat.mod_lt _ radix_pos)
  generalize clz32 (digit v n) = shift at *
  rw [digit_of_lt upper] at fits normalised
  constructor
  · calc radix ^ (n + 1) ≤ radix ^ n * (2 * (v / radix ^ n * 2 ^ shift)) := by
          rw [pow_succ]
          exact Nat.mul_le_mul_left _ normalised
      _ = 2 * (v / radix ^ n * radix ^ n * 2 ^ shift) := by ring
      _ ≤ 2 * (v * 2 ^ shift) := by
        gcongr
        exact Nat.div_mul_le_self ..
  · calc v * 2 ^ shift < radix ^ n * (v / radix ^ n + 1) * 2 ^ shift := by
          gcongr
          exact Nat.lt_mul_div_succ _ unit
      _ ≤ radix ^ (n + 1) := by
        rw [mul_assoc, pow_succ]
        exact Nat.mul_le_mul_left _ fits

/-- Algorithm D divides: the loop divides the shifted numbers, whose quotient is the same and whose
remainder is the shifted one. -/
theorem knuthPath_eq {len : Nat} (digits : digitCount v = k + 2) (enough : k + 2 ≤ len)
    (fits : a < radix ^ len) : knuthPath len a v = (a / v, a % v) := by
  have lower : radix ^ (k + 1) ≤ v := radix_pow_le_of_lt_digitCount (by omega)
  have upper : v < radix ^ (k + 2) := digits ▸ lt_radix_pow_digitCount v
  obtain ⟨normalised, shifted⟩ := normalised_bounds lower upper
  have pos : 0 < v := (Nat.pow_pos radix_pos).trans_le lower
  rw [knuthPath, digits, show k + 2 - 1 = k + 1 from rfl]
  generalize clz32 (digit v (k + 1)) = shift at *
  have scale : 0 < 2 ^ shift := Nat.two_pow_pos _
  have bounded : a * 2 ^ shift < v * 2 ^ shift * radix ^ (len - (k + 2) + 1) := by
    calc a * 2 ^ shift < radix ^ len * 2 ^ shift := by gcongr
      _ = radix ^ (k + 1) * radix ^ (len - (k + 2) + 1) * 2 ^ shift := by
        rw [← pow_add]
        congr 2
        omega
      _ ≤ v * radix ^ (len - (k + 2) + 1) * 2 ^ shift := by gcongr
      _ = v * 2 ^ shift * radix ^ (len - (k + 2) + 1) := by ring
  have remainder : a % v * 2 ^ shift < radix ^ (k + 2) :=
    (Nat.mul_le_mul_right _ (Nat.mod_lt _ pos).le).trans_lt shifted
  rw [knuthLoop_eq normalised shifted _ _ _ bounded]
  simp only [zero_add]
  rw [Nat.mul_div_mul_right _ _ scale, Nat.mul_mod_mul_right, Nat.mod_eq_of_lt remainder,
    Nat.mul_div_cancel _ scale]

/-- The divisors that the engine and the modular unit leave to Algorithm D have two to four digits. -/
theorem exists_digitCount_eq (lower : 2 ^ 32 ≤ v) (upper : v < 2 ^ 128) :
    ∃ k, digitCount v = k + 2 ∧ k ≤ 2 := by
  have long : ¬ bitlen v ≤ 32 := by
    rw [bitlen_le_iff]
    omega
  have short : bitlen v ≤ 128 := (bitlen_le_iff ..).2 upper
  refine ⟨digitCount v - 2, ?_, ?_⟩ <;> rw [digitCount] <;> omega

theorem nativePath_eq {b : Nat} (dividend : a < 2 ^ 64) (divisor : b < 2 ^ 64) :
    nativePath a b = (a / b, a % b) := by
  rw [nativePath, Nat.mod_eq_of_lt dividend, Nat.mod_eq_of_lt divisor]

end Knuth

/-- Settles O49, path by path. -/
theorem divisionPathsDivide : Obligations.DivisionPathsDivide := by
  refine ⟨fun a b dividend _ divisor => nativePath_eq dividend divisor,
    fun a v fits pos _ => schoolbookPath_eq fits pos, fun len a v enough fits lower upper => ?_⟩
  obtain ⟨k, digits, few⟩ := exists_digitCount_eq lower upper
  exact knuthPath_eq digits (by omega) (by rwa [radix_pow])

/-! ## The engine (44_divide.md R214) -/

section Engine
variable {a b : Word}

theorem hi_eq_zero_iff (v : Word) : hi v = 0 ↔ uVal v < 2 ^ 64 := by
  rw [← BitVec.toNat_inj, hi_toNat]
  exact Nat.div_eq_zero_iff_lt (by decide)

theorem divisionEngine_of_eq_zero (zero : uVal b = 0) : divisionEngine a b = none := by
  rw [divisionEngine, if_pos zero]

/-- For a divisor that is not zero the engine answers quotient and remainder: each path is taken on
operands that it divides. -/
theorem divisionEngine_of_ne_zero (nonzero : uVal b ≠ 0) : divisionEngine a b =
    some (BitVec.ofNat 128 (uVal a / uVal b), BitVec.ofNat 128 (uVal a % uVal b)) := by
  obtain ⟨native, schoolbook, knuth⟩ := divisionPathsDivide
  have pos := Nat.pos_of_ne_zero nonzero
  rw [divisionEngine, if_neg nonzero]
  split_ifs with below limbs digit
  · rw [Nat.div_eq_of_lt below, Nat.mod_eq_of_lt below]
    simp [uVal, zeroWord, ofLimbs]
  · rw [native _ _ ((hi_eq_zero_iff a).1 limbs.2) pos ((hi_eq_zero_iff b).1 limbs.1)]
  · rw [schoolbook _ _ (uVal_lt a) pos digit]
  · rw [knuth 4 _ _ le_rfl (uVal_lt a) (not_lt.1 digit) (uVal_lt b)]

end Engine

/-- Settles O48: the answer is the quotient and the remainder, which fit in 128 bits. -/
theorem divisionEngineAgrees : Obligations.DivisionEngineAgrees := by
  intro a b
  by_cases zero : uVal b = 0
  · rw [divisionEngine_of_eq_zero zero]
    exact ⟨iff_of_true rfl zero, fun q r answer => nomatch answer⟩
  · rw [divisionEngine_of_ne_zero zero]
    refine ⟨iff_of_false (Option.some_ne_none _) zero, fun q r answer => ?_⟩
    obtain ⟨rfl, rfl⟩ := Prod.mk.inj (Option.some.inj answer)
    exact ⟨uVal_udivWord a b, uVal_uremWord a b⟩

end Sys2Proof.Machine
end

section
/-! PROOFS. The family of 45_gcd.md: the command by its gcd, and the GCD unit. A step of Euclid keeps the
gcd of the two operands, and so does a Lehmer pass: each half-step adds a multiple of one row of the
cosequence matrix to the other, so the determinant stays 1, and a matrix of determinant 1 keeps the gcd,
also when its two combinations are taken by absolute value. -/

namespace Sys2Proof.Machine

/-! ## The command -/

/-- The gcd is at most the larger operand, so it fits (45_gcd.md R240). -/
theorem uVal_gcdWord (a b : Word) : uVal (gcdWord a b) = Nat.gcd (uVal a) (uVal b) := by
  apply uVal_pat_of_lt
  rcases Nat.eq_zero_or_pos (uVal a) with zero | pos
  · rw [zero, Nat.gcd_zero_left]
    exact uVal_lt b
  · exact (Nat.gcd_le_left _ pos).trans_lt (uVal_lt a)

/-- A common divisor is at most the gcd, unless both numbers are zero (45_gcd.md R241). -/
theorem le_gcd_or_eq_zero {d m n : Nat} (left : d ∣ m) (right : d ∣ n) :
    d ≤ Nat.gcd m n ∨ m = 0 ∧ n = 0 := by
  rcases Nat.eq_zero_or_pos (Nat.gcd m n) with zero | pos
  · exact .inr (Nat.gcd_eq_zero_iff.1 zero)
  · exact .inl (Nat.le_of_dvd pos (Nat.dvd_gcd left right))

/-- Settles O50, by the unsigned reading of the result. -/
theorem greatestCommonDivisor : Obligations.GreatestCommonDivisor := by
  intro s rd rs1 rs2
  obtain ⟨t, run, result, frame⟩ := exec_binaryOp (i := .uGcd rd rs1 rs2) (s := s) BitVec.toNat rfl
    (uVal_gcdWord (s.reg rs1) (s.reg rs2))
  refine ⟨.of_encodeR2 rfl rfl, t, run, ?_⟩
  rw [result]
  exact ⟨Nat.gcd_dvd_left .., Nat.gcd_dvd_right ..,
    fun d left right => ⟨Nat.dvd_gcd left right, le_gcd_or_eq_zero left right⟩,
    fun zero => (congrArg (Nat.gcd _) zero).trans (Nat.gcd_zero_right _),
    fun zero => (congrArg (Nat.gcd · _) zero).trans (Nat.gcd_zero_left _), frame⟩

/-! ## Euclid's algorithm -/

/-- A step of Euclid, also the width equalisation and the fallback (45_gcd.md R242, R245, R246). -/
theorem gcd_euclidStep (x y : Nat) : Nat.gcd y (x % y) = Nat.gcd x y := by
  rw [Nat.gcd_comm, ← Nat.gcd_rec, Nat.gcd_comm]

/-- Each step makes the second operand smaller, so a fuel above it never runs out. -/
theorem euclid_eq_gcd {fuel x y : Nat} (enough : y < fuel) : euclid fuel x y = Nat.gcd x y := by
  induction fuel generalizing x y with
  | zero => omega
  | succ fuel ih =>
    rw [euclid]
    split
    next zero => rw [zero, Nat.gcd_zero_right]
    next nonzero =>
      have smaller := Nat.mod_lt x (Nat.pos_of_ne_zero nonzero)
      rw [ih (by omega), gcd_euclidStep]

/-! ## The single-precision loop (45_gcd.md R243) -/

namespace Cosequence

/-- The odd half-step: the second row is taken off the first, as often as the quotient says. -/
def oddStep (m : Cosequence) : Cosequence :=
  { m with
    a := m.a + m.xs / m.ys * m.c, b := m.b + m.xs / m.ys * m.d
    xs := m.xs - m.xs / m.ys * m.ys, it := m.it + 1 }

/-- The even half-step: the first row is taken off the second, as often as the quotient says. -/
def evenStep (m : Cosequence) : Cosequence :=
  { m with
    d := m.d + m.ys / m.xs * m.b, c := m.c + m.ys / m.xs * m.a
    ys := m.ys - m.ys / m.xs * m.xs, it := m.it + 1 }

/-- The matrix with rows `(a, -b)` and `(-c, d)` has determinant 1. -/
def Unimodular (m : Cosequence) : Prop := (m.a : Int) * m.d - m.b * m.c = 1

variable {m : Cosequence}

theorem Unimodular.oddStep (h : m.Unimodular) : m.oddStep.Unimodular := by
  unfold Unimodular Cosequence.oddStep at *
  push_cast
  linear_combination h

theorem Unimodular.evenStep (h : m.Unimodular) : m.evenStep.Unimodular := by
  unfold Unimodular Cosequence.evenStep at *
  push_cast
  linear_combination h

end Cosequence

/-- One round of the loop ends before, between or after its two half-steps, or goes on after both. -/
theorem lehmerLoop_succ_cases (fuel : Nat) (m : Cosequence) :
    lehmerLoop (fuel + 1) m = m ∨ lehmerLoop (fuel + 1) m = m.oddStep
      ∨ lehmerLoop (fuel + 1) m = m.oddStep.evenStep
      ∨ lehmerLoop (fuel + 1) m = lehmerLoop fuel m.oddStep.evenStep := by
  simp only [lehmerLoop]
  split_ifs
  · exact .inl rfl
  · exact .inr (.inl rfl)
  · exact .inr (.inr (.inl rfl))
  · exact .inr (.inr (.inr rfl))
  · exact .inr (.inl rfl)
  · exact .inl rfl

theorem lehmerLoop_unimodular (fuel : Nat) {m : Cosequence} (h : m.Unimodular) :
    (lehmerLoop fuel m).Unimodular := by
  induction fuel generalizing m with
  | zero => exact h
  | succ fuel ih =>
    obtain stop | stop | stop | go := lehmerLoop_succ_cases fuel m
    · rwa [stop]
    · rw [stop]
      exact h.oddStep
    · rw [stop]
      exact h.oddStep.evenStep
    · rw [go]
      exact ih h.oddStep.evenStep

/-! ## The unit -/

/-- A common divisor of two numbers divides any two combinations of them. -/
theorem gcd_dvd_gcd_combinations (x y p q r s : Int) :
    Int.gcd x y ∣ Int.gcd (p * x + q * y) (r * x + s * y) := by
  have combination (p q : Int) : (Int.gcd x y : Int) ∣ p * x + q * y :=
    dvd_add ((Int.gcd_dvd_left ..).mul_left p) ((Int.gcd_dvd_right ..).mul_left q)
  exact Int.dvd_gcd (combination p q) (combination r s)

/-- A matrix of determinant 1 keeps the gcd: its inverse gives the two numbers back. -/
theorem gcd_of_unimodular {a b c d : Int} (det : a * d - b * c = 1) (x y : Int) :
    Int.gcd (a * x - b * y) (d * y - c * x) = Int.gcd x y := by
  apply Nat.dvd_antisymm
  · have back := gcd_dvd_gcd_combinations (a * x - b * y) (d * y - c * x) d b c a
    have first : d * (a * x - b * y) + b * (d * y - c * x) = x := by linear_combination x * det
    have second : c * (a * x - b * y) + a * (d * y - c * x) = y := by linear_combination y * det
    rwa [first, second] at back
  · have forth := gcd_dvd_gcd_combinations x y a (-b) (-c) d
    have first : a * x + -b * y = a * x - b * y := by ring
    have second : -c * x + d * y = d * y - c * x := by ring
    rwa [first, second] at forth

/-- A pass keeps the gcd, by the fallback step or by the matrix of the loop, in either order of the
results (45_gcd.md R243, R245). -/
theorem gcd_lehmerPass (x y : Nat) :
    Nat.gcd (lehmerPass x y).1 (lehmerPass x y).2 = Nat.gcd x y := by
  let k := bitlen x - 63
  have matrix := gcd_of_unimodular (lehmerLoop_unimodular 128
    (m := ⟨x / 2 ^ k, y / 2 ^ k, 1, 0, 0, 1, 0⟩) rfl) x y
  rw [Int.gcd_natCast_natCast] at matrix
  simp only [lehmerPass]
  split_ifs with identity odd
  · exact gcd_euclidStep x y
  · exact (Nat.gcd_comm ..).trans matrix
  · exact matrix

theorem lehmerPhases_eq_gcd (fuel x y : Nat) : lehmerPhases fuel x y = Nat.gcd x y := by
  induction fuel generalizing x y with
  | zero => exact euclid_eq_gcd (Nat.lt_succ_self y)
  | succ fuel ih =>
    simp only [lehmerPhases]
    split_ifs with small zero
    · exact euclid_eq_gcd (Nat.lt_succ_self y)
    · rw [zero, Nat.gcd_zero_right]
    · exact (ih ..).trans (gcd_lehmerPass x y)

/-- Ordering the operands keeps their gcd (45_gcd.md R242). -/
theorem gcd_max_min (a b : Nat) : Nat.gcd (max a b) (min a b) = Nat.gcd a b := by
  rcases le_total a b with le | le
  · rw [max_eq_right le, min_eq_left le, Nat.gcd_comm]
  · rw [max_eq_left le, min_eq_right le]

/-- Settles O51: every phase of the unit keeps the gcd, whether or not Jebelean's test, the bound on the
passes or the fuel of the single-precision loop ends it early. -/
theorem gcdUnitAgrees : Obligations.GcdUnitAgrees := by
  intro a b _ _
  rw [← gcd_max_min, gcdUnit]
  split_ifs with zero narrow
  · rw [zero, Nat.gcd_zero_right]
  · exact (lehmerPhases_eq_gcd ..).trans (gcd_euclidStep ..)
  · exact lehmerPhases_eq_gcd ..

end Sys2Proof.Machine
end

section
/-! PROOFS. The family of 46_modular.md: the commands by the residue that each writes, the modular unit on
pre-reduced operands, REDC, and the square-and-multiply loop. The loop is treated once, for any
multiplication of reduced words that is a product of the values they stand for: in the plain loop a word
stands for its own residue, in the Montgomery loop for its residue divided by `2^128`. -/

namespace Sys2Proof.Machine

/-! ## Commands of format R3, which test their modulus -/

section ThreeSources
variable {i : Instr} {rd rs1 rs2 rs3 : Reg} {s : State}

/-- A command of format R3 has the R3 word of its opcode (30_encoding.md R66). -/
theorem HasWord.of_encodeR3 (wf : wellFormed i = true)
    (word : encode i = encodeR3 (opcode i) rd rs1 rs2 rs3) :
    HasWord i (wordR3 (opcode i).toNat rd rs1 rs2 rs3) := by
  have number := HasWord.of_wellFormed wf
  rwa [word, encodeR3_toNat] at number

variable {f : Word → Word → Word → Word}
  (run : exec i s = .next (if isZero (s.reg rs3) then s.raise .divideByZero (encode i)
    else ternaryOp f rd rs1 rs2 rs3 s))
  (nonzero : (s.reg rs3).toNat ≠ 0)
include run nonzero

/-- A modular command whose modulus is not zero writes the residue of its exact result, and nothing
else. -/
theorem exec_modular {n : Int}
    (value : (uVal (f (s.reg rs1) (s.reg rs2) (s.reg rs3)) : Int) = n % uVal (s.reg rs3)) :
    ∃ t, exec i s = .next t ∧ ((t.reg rd).toNat : Int) = n % (s.reg rs3).toNat ∧
      (t.reg rd).toNat < (s.reg rs3).toNat ∧ SameOutside [rd] s t := by
  obtain ⟨result, frame⟩ := ternaryOp_spec f rd rs1 rs2 rs3 s
  rw [← result] at value
  have reduced := value.trans_lt (Int.emod_lt_of_pos n (by exact_mod_cast Nat.pos_of_ne_zero nonzero))
  exact ⟨_, exec_of_divisor_ne_zero run nonzero, value, mod_cast reduced, frame⟩

/-- The same, for an exact result that is a natural number. -/
theorem exec_modular_nat {n : Nat}
    (value : uVal (f (s.reg rs1) (s.reg rs2) (s.reg rs3)) = n % uVal (s.reg rs3)) :
    ∃ t, exec i s = .next t ∧ (t.reg rd).toNat = n % (s.reg rs3).toNat ∧
      (t.reg rd).toNat < (s.reg rs3).toNat ∧ SameOutside [rd] s t := by
  exact_mod_cast exec_modular (n := n) run nonzero (mod_cast value)

end ThreeSources

section Residues
variable {m : Word} (a b : Word)

/-- A residue fits in 128 bits, as its modulus does. -/
theorem mod_uVal_lt (n : Nat) (nonzero : uVal m ≠ 0) : n % uVal m < 2 ^ 128 :=
  (Nat.mod_lt n (Nat.pos_of_ne_zero nonzero)).trans (uVal_lt m)

/-- The residue that a command writes, read unsigned. -/
theorem uVal_pat_mod (n : Nat) (nonzero : uVal m ≠ 0) :
    uVal (pat ((n % uVal m : Nat) : Int)) = n % uVal m :=
  uVal_pat_of_lt (mod_uVal_lt n nonzero)

/-- The residue that a procedure of the unit answers, read unsigned. -/
theorem uVal_ofNat_mod (n : Nat) (nonzero : uVal m ≠ 0) :
    uVal (BitVec.ofNat 128 (n % uVal m)) = n % uVal m := by
  rw [uVal, BitVec.toNat_ofNat, Nat.mod_eq_of_lt (mod_uVal_lt n nonzero)]

theorem uVal_modAddWord (nonzero : uVal m ≠ 0) :
    uVal (modAddWord a b m) = (uVal a + uVal b) % uVal m :=
  uVal_pat_mod _ nonzero

/-- The residue of a difference is not negative (46_modular.md R261). -/
theorem uVal_modSubWord (nonzero : uVal m ≠ 0) :
    (uVal (modSubWord a b m) : Int) = ((uVal a : Int) - uVal b) % uVal m := by
  have modulus := uVal_lt m
  have lower := Int.emod_nonneg ((uVal a : Int) - uVal b) (b := uVal m) (by omega)
  have upper := Int.emod_lt_of_pos ((uVal a : Int) - uVal b) (b := uVal m) (by omega)
  rw [modSubWord, uVal_pat, Int.emod_eq_of_lt lower (by omega)]

theorem uVal_modMulWord (nonzero : uVal m ≠ 0) :
    uVal (modMulWord a b m) = uVal a * uVal b % uVal m :=
  uVal_pat_mod _ nonzero

theorem uVal_modPowWord (nonzero : uVal m ≠ 0) :
    uVal (modPowWord a b m) = uVal a ^ uVal b % uVal m := by
  rw [modPowWord, powMod_eq (uVal_lt b), uVal_pat_mod _ nonzero]

end Residues

/-- Settles O52, by the residue that each command writes. -/
theorem modularSumDifferenceProduct : Obligations.ModularSumDifferenceProduct := by
  intro s rd rs1 rs2 rs3
  refine ⟨.of_encodeR3 rfl rfl, fun nonzero => ?_, exec_of_divisor_eq_zero rfl,
    .of_encodeR3 rfl rfl, fun nonzero => ?_, exec_of_divisor_eq_zero rfl,
    .of_encodeR3 rfl rfl, fun nonzero => ?_, exec_of_divisor_eq_zero rfl⟩
  · exact exec_modular_nat rfl nonzero (uVal_modAddWord _ _ nonzero)
  · exact exec_modular rfl nonzero (uVal_modSubWord _ _ nonzero)
  · exact exec_modular_nat rfl nonzero (uVal_modMulWord _ _ nonzero)

/-- Settles O53, by the power that the loop of the command reduces. -/
theorem modularPower : Obligations.ModularPower := by
  intro s rd rs1 rs2 rs3
  exact ⟨.of_encodeR3 rfl rfl, fun nonzero => exec_modular_nat rfl nonzero (uVal_modPowWord _ _ nonzero),
    exec_of_divisor_eq_zero rfl⟩

/-! ## The modular unit -/

/-- The conditional subtraction reduces a number below twice the modulus (46_modular.md R267, R279). -/
theorem conditional_sub_eq_mod {x n : Nat} (bound : x < 2 * n) :
    (if x ≥ n then x - n else x) = x % n := by
  split
  next le => rw [Nat.mod_eq_sub_mod le, Nat.mod_eq_of_lt (by omega)]
  next lt => rw [Nat.mod_eq_of_lt (by omega)]

section ModularUnit
variable {a b m : Word}

theorem uVal_engineRemainder (nonzero : uVal m ≠ 0) :
    uVal (engineRemainder a m) = uVal a % uVal m := by
  rw [engineRemainder, divisionEngine_of_ne_zero nonzero]
  exact uVal_uremWord a m

/-- Pre-reduction takes an operand to its residue (46_modular.md R265). -/
theorem uVal_preReduce (nonzero : uVal m ≠ 0) : uVal (preReduce a m) = uVal a % uVal m := by
  rw [preReduce]
  split
  next below => rw [Nat.mod_eq_of_lt below]
  next => exact uVal_engineRemainder nonzero

theorem uVal_preReduce_lt (nonzero : uVal m ≠ 0) : uVal (preReduce a m) < uVal m := by
  rw [uVal_preReduce nonzero]
  exact Nat.mod_lt _ (Nat.pos_of_ne_zero nonzero)

/-- The sum of reduced operands is below `2 * u(m)`; a 128-bit sum that has wrapped around is below its
operand, and its subtraction wraps back (46_modular.md R267). -/
theorem uVal_modAddReduced (left : uVal a < uVal m) (right : uVal b < uVal m) :
    uVal (modAddReduced a b m) = (uVal a + uVal b) % uVal m := by
  have modulus := uVal_lt m
  have sum := uVal_addWord a b
  have difference := uVal_subWord (addWord a b) m
  have correction : uVal (addWord a b) < uVal a ∨ uVal (addWord a b) ≥ uVal m ↔
      uVal a + uVal b ≥ uVal m := by omega
  rw [← conditional_sub_eq_mod (by omega), modAddReduced, adderPath_eq, subtractorPath_eq]
  simp only [correction]
  split <;> omega

/-- A difference that has wrapped around is brought back by one addition (46_modular.md R268). -/
theorem uVal_modSubReduced (left : uVal a < uVal m) (right : uVal b < uVal m) :
    (uVal (modSubReduced a b m) : Int) = ((uVal a : Int) - uVal b) % uVal m := by
  have modulus := uVal_lt m
  have difference := uVal_subWord a b
  have sum := uVal_addWord (subWord a b) m
  simp only [modSubReduced, adderPath_eq, subtractorPath_eq]
  split
  next wrapped =>
    rw [← Int.add_emod_right, Int.emod_eq_of_lt (by omega) (by omega)]
    omega
  next =>
    rw [Int.emod_eq_of_lt (by omega) (by omega)]
    omega

/-- Both paths hold the exact product and divide it (46_modular.md R266). -/
theorem uVal_modMulReduced (left : uVal a < uVal m) (right : uVal b < uVal m) :
    uVal (modMulReduced a b m) = uVal a * uVal b % uVal m := by
  have nonzero : uVal m ≠ 0 := by omega
  have modulus := uVal_lt m
  rw [modMulReduced]
  split
  next narrow =>
    rw [hi_eq_zero_iff] at narrow
    rw [uVal_engineRemainder nonzero, uVal_mul64Path, lo_toNat, lo_toNat,
      Nat.mod_eq_of_lt (left.trans narrow), Nat.mod_eq_of_lt (right.trans narrow)]
  next wide =>
    rw [hi_eq_zero_iff] at wide
    have product : uVal a * uVal b < 2 ^ 128 * 2 ^ 128 := Nat.mul_lt_mul'' (uVal_lt a) (uVal_lt b)
    obtain ⟨_, _, knuth⟩ := divisionPathsDivide
    rw [toNat_mulWidePath, knuth 8 _ _ (by decide) product (by omega) modulus, uVal_ofNat_mod _ nonzero]

end ModularUnit

/-- Settles O54: the residue of the result depends on the residues of the operands only. -/
theorem modularUnitAgrees : Obligations.ModularUnitAgrees := by
  intro a b m nonzero
  have left := uVal_preReduce_lt (a := a) nonzero
  have right := uVal_preReduce_lt (a := b) nonzero
  have sum := uVal_modAddReduced left right
  have difference := uVal_modSubReduced left right
  have product := uVal_modMulReduced left right
  rw [uVal_preReduce nonzero, uVal_preReduce nonzero] at sum difference product
  rw [← Nat.add_mod] at sum
  rw [Int.natCast_mod, Int.natCast_mod, ← Int.sub_emod] at difference
  rw [← Nat.mul_mod] at product
  exact ⟨sum, difference, product⟩

/-! ## Montgomery reduction (46_modular.md R279) -/

section Inverse
variable (n x : Limb)

/-- A step of Newton's iteration squares the error of the inverse. -/
theorem newton_error : 1 - n * (x * (2 - n * x)) = (1 - n * x) ^ 2 := by
  ring

/-- Five steps from `n` itself raise its error to the power 32. -/
theorem mul_montgomeryInverse : n * montgomeryInverse n + 1 = (1 - n * n) ^ 32 := by
  have negated (y : Limb) : n * (0 - y) + 1 = 1 - n * y := by ring
  simp only [montgomeryInverse]
  rw [negated]
  simp only [newton_error, ← pow_mul]

/-- The error of an odd `n` as its own inverse is a multiple of 4, so its power 32 vanishes. -/
theorem mul_montgomeryInverse_of_odd (odd : n.toNat % 2 = 1) : n * montgomeryInverse n + 1 = 0 := by
  have vanishes : (4 : Limb) ^ 32 = 0 := by decide
  obtain ⟨k, twice⟩ : ∃ k : Limb, n = 2 * k + 1 := ⟨n >>> 1, by bv_omega⟩
  have error : 1 - n * n = 4 * (-(k * (k + 1))) := by
    rw [twice]
    ring
  rw [mul_montgomeryInverse, error, mul_pow, vanishes, zero_mul]

/-- The constant of REDC is the negated inverse (46_modular.md R279). -/
theorem toNat_mul_montgomeryInverse (odd : n.toNat % 2 = 1) :
    (n.toNat * (montgomeryInverse n).toNat + 1) % 2 ^ 64 = 0 := by
  have inverse := congrArg BitVec.toNat (mul_montgomeryInverse_of_odd n odd)
  rwa [BitVec.toNat_add, BitVec.toNat_mul, Nat.mod_add_mod] at inverse

end Inverse

section Reduction
variable {n t q : Nat}

/-- The constant of REDC, for the low limb of an odd modulus. -/
theorem two_pow_dvd_montgomeryInverse (odd : n % 2 = 1) :
    2 ^ 64 ∣ n * (montgomeryInverse (BitVec.ofNat 64 n)).toNat + 1 := by
  have inverse := toNat_mul_montgomeryInverse (BitVec.ofNat 64 n) (by rw [BitVec.toNat_ofNat]; omega)
  apply Nat.dvd_of_mod_eq_zero
  rwa [BitVec.toNat_ofNat, Nat.add_mod, Nat.mod_mul_mod, ← Nat.add_mod] at inverse

/-- A round makes the lowest limb that is left zero: the multiple of `n` is that limb, negated. -/
theorem two_pow_dvd_add_mul (odd : n % 2 = 1) : 2 ^ 64 ∣
    q + q % 2 ^ 64 * (montgomeryInverse (BitVec.ofNat 64 n)).toNat % 2 ^ 64 * n := by
  have inverse := two_pow_dvd_montgomeryInverse odd
  generalize (montgomeryInverse (BitVec.ofNat 64 n)).toNat = n' at *
  have limb : q % 2 ^ 64 * n' % 2 ^ 64 * n ≡ q * n' * n [MOD 2 ^ 64] :=
    ((Nat.mod_modEq ..).trans ((Nat.mod_modEq ..).mul_right n')).mul_right n
  rw [(limb.add_left q).dvd_iff dvd_rfl, show q + q * n' * n = q * (n * n' + 1) by ring]
  exact inverse.mul_left q

theorem redcRound_modEq (i : Nat) : redcRound n t i ≡ t [MOD n] := by
  simp only [redcRound, Nat.ModEq]
  rw [mul_right_comm, Nat.add_mul_mod_self_right]

/-- With the limbs below `i` zero, a round makes limb `i` zero as well. -/
theorem two_pow_dvd_redcRound {i : Nat} (odd : n % 2 = 1) (below : 2 ^ (64 * i) ∣ t) :
    2 ^ (64 * i) * 2 ^ 64 ∣ redcRound n t i := by
  obtain ⟨q, rfl⟩ := below
  simp only [redcRound]
  rw [Nat.mul_div_cancel_left _ (Nat.two_pow_pos _), mul_comm _ (2 ^ (64 * i)), ← mul_add]
  exact Nat.mul_dvd_mul_left _ (two_pow_dvd_add_mul odd)

theorem redcRound_le (i : Nat) : redcRound n t i ≤ t + (2 ^ 64 - 1) * n * 2 ^ (64 * i) := by
  simp only [redcRound]
  gcongr
  exact Nat.le_sub_one_of_lt (Nat.mod_lt _ (by decide))

/-- After the two rounds the number is a multiple of `2^128`, and the quotient is below `2 * n`, so that
the conditional subtraction reduces it. -/
theorem redc_spec (odd : n % 2 = 1) (bound : t < n * 2 ^ 128) :
    redc n t < n ∧ redc n t * 2 ^ 128 ≡ t [MOD n] := by
  have low := two_pow_dvd_redcRound (i := 0) odd (one_dvd t)
  obtain ⟨u, rounds⟩ := two_pow_dvd_redcRound (i := 1) odd (by simpa using low)
  have congruent := (redcRound_modEq (n := n) (t := redcRound n t 0) 1).trans (redcRound_modEq 0)
  have firstRound := redcRound_le (n := n) (t := t) 0
  have secondRound := redcRound_le (n := n) (t := redcRound n t 0) 1
  rw [rounds] at congruent secondRound
  have quotient : redc n t = u % n := by
    rw [redc, rounds, ← pow_add, Nat.mul_div_cancel_left _ (Nat.two_pow_pos _)]
    exact conditional_sub_eq_mod (by omega)
  rw [quotient]
  refine ⟨Nat.mod_lt _ (by omega), ?_⟩
  calc u % n * 2 ^ 128 ≡ u * 2 ^ 128 [MOD n] := (Nat.mod_modEq u n).mul_right _
    _ ≡ t [MOD n] := by rwa [mul_comm, pow_add 2 64 64]

/-- REDC takes a number congruent to `v * 2^128` to the residue of `v`: an odd modulus has no factor in
common with `2^128`. -/
theorem redc_eq_mod {v : Nat} (odd : n % 2 = 1) (bound : t < n * 2 ^ 128)
    (scaled : t ≡ v * 2 ^ 128 [MOD n]) : redc n t = v % n := by
  obtain ⟨reduced, congruent⟩ := redc_spec odd bound
  have coprime : Nat.gcd n (2 ^ 128) = 1 :=
    (Nat.coprime_two_right.2 (Nat.odd_iff.2 odd)).pow_right 128
  have residue := (congruent.trans scaled).cancel_right_of_coprime coprime
  rw [← Nat.mod_eq_of_lt reduced]
  exact residue

end Reduction

/-- Settles O56, by the error of the inverse and by the two rounds. -/
theorem montgomeryReductionIsCorrect : Obligations.MontgomeryReductionIsCorrect :=
  ⟨toNat_mul_montgomeryInverse, fun _ _ odd _ bound => redc_spec odd bound⟩

/-! ## Square-and-multiply, for any multiplication of words that stand for numbers -/

section Loop
variable {mul : Word → Word → Word} {stands : Word → Nat → Prop}

/-- The invariant of the loop over a limb: the accumulator times the power of the base by the bits done,
and the base squared for each of them (46_modular.md R269). -/
theorem modPowLimb_stands
    (product : ∀ {x y v w}, stands x v → stands y w → stands (mul x y) (v * w))
    {k e v w : Nat} {p : Word × Word} (exponent : e < 2 ^ k) (acc : stands p.1 v) (base : stands p.2 w) :
    stands (modPowLimb mul k e p).1 (v * w ^ e) ∧ stands (modPowLimb mul k e p).2 (w ^ 2 ^ k) := by
  induction k generalizing e v w p with
  | zero =>
    obtain rfl : e = 0 := by omega
    simpa [modPowLimb] using And.intro acc base
  | succ k ih =>
    have bit : stands (if e % 2 = 1 then mul p.1 p.2 else p.1) (v * w ^ (e % 2)) := by
      rcases Nat.mod_two_eq_zero_or_one e with even | odd
      · simpa [even] using acc
      · simpa [odd] using product acc base
    have power : v * w ^ (e % 2) * (w * w) ^ (e / 2) = v * w ^ e := by
      rw [← sq, ← pow_mul, mul_assoc, ← pow_add, Nat.mod_add_div]
    have squares : (w * w) ^ 2 ^ k = w ^ 2 ^ (k + 1) := by
      rw [← sq, ← pow_mul, pow_succ']
    rw [modPowLimb, ← power, ← squares]
    exact ih (by omega) bit (product base base)

/-- The low limb, then the high one, or nothing for a high limb of zero (46_modular.md R269). -/
theorem modPowLoop_stands
    (product : ∀ {x y v w}, stands x v → stands y w → stands (mul x y) (v * w))
    {one base e : Word} {w : Nat} (unit : stands one 1) (operand : stands base w) :
    stands (modPowLoop mul one base e) (w ^ uVal e) := by
  obtain ⟨lowPower, squares⟩ := modPowLimb_stands (p := (one, base)) product (lo e).isLt unit operand
  have limbs : w ^ uVal e = 1 * w ^ (lo e).toNat * (w ^ 2 ^ 64) ^ (hi e).toNat := by
    rw [uVal_limbs, pow_add, pow_mul', pow_right_comm, one_mul, mul_comm]
  rw [limbs, modPowLoop]
  split
  next zero => simpa [zero] using lowPower
  next => exact (modPowLimb_stands product (hi e).isLt lowPower squares).1

end Loop

/-! ## The power of the unit -/

/-- A word that stands for the number `v` modulo `n`, scaled: by 1 in the plain loop, by `2^128` in
Montgomery form (46_modular.md R279). -/
def StandsFor (n scale : Nat) (x : Word) (v : Nat) : Prop := uVal x = v * scale % n

theorem StandsFor.lt {n scale v : Nat} {x : Word} (h : StandsFor n scale x v) (nonzero : n ≠ 0) :
    uVal x < n :=
  h.trans_lt (Nat.mod_lt _ (Nat.pos_of_ne_zero nonzero))

theorem StandsFor.modEq {n scale v : Nat} {x : Word} (h : StandsFor n scale x v) :
    uVal x ≡ v * scale [MOD n] :=
  (congrArg (· % n) h).trans (Nat.mod_mod ..)

section Power
variable {m x y : Word} {v w : Nat}

theorem modMulReduced_standsFor (nonzero : uVal m ≠ 0) (left : StandsFor (uVal m) 1 x v)
    (right : StandsFor (uVal m) 1 y w) : StandsFor (uVal m) 1 (modMulReduced x y m) (v * w) := by
  rw [StandsFor, uVal_modMulReduced (left.lt nonzero) (right.lt nonzero), ← one_mul 1, mul_mul_mul_comm]
  exact left.modEq.mul right.modEq

/-- The product of two values in Montgomery form carries `2^128` twice, and REDC takes one of them off
(46_modular.md R279). -/
theorem montgomeryMul_standsFor (odd : uVal m % 2 = 1) (left : StandsFor (uVal m) (2 ^ 128) x v)
    (right : StandsFor (uVal m) (2 ^ 128) y w) :
    StandsFor (uVal m) (2 ^ 128) (montgomeryMul m x y) (v * w) := by
  have nonzero : uVal m ≠ 0 := by omega
  have bound : uVal x * uVal y < uVal m * 2 ^ 128 := Nat.mul_lt_mul'' (left.lt nonzero) (uVal_lt y)
  have scaled : uVal x * uVal y ≡ v * w * 2 ^ 128 * 2 ^ 128 [MOD uVal m] := by
    rw [mul_assoc (v * w), ← mul_mul_mul_comm]
    exact left.modEq.mul right.modEq
  rw [StandsFor, montgomeryMul, toNat_mulWidePath, redc_eq_mod odd bound scaled, uVal_ofNat_mod _ nonzero]

/-- Into the Montgomery form (46_modular.md R279). -/
theorem toMontgomery_standsFor (nonzero : uVal m ≠ 0) (value : StandsFor (uVal m) 1 x v) :
    StandsFor (uVal m) (2 ^ 128) (toMontgomery m x) v := by
  have scaled := value.modEq.mul_right (2 ^ 128)
  rw [mul_one] at scaled
  rw [StandsFor, toMontgomery, uVal_ofNat_mod _ nonzero]
  exact scaled

/-- Out of the Montgomery form (46_modular.md R279). -/
theorem uVal_fromMontgomery (odd : uVal m % 2 = 1) (value : StandsFor (uVal m) (2 ^ 128) x v) :
    uVal (fromMontgomery m x) = v % uVal m := by
  have nonzero : uVal m ≠ 0 := by omega
  have bound : uVal x < uVal m * 2 ^ 128 :=
    (value.lt nonzero).trans_le (Nat.le_mul_of_pos_right _ (Nat.two_pow_pos _))
  rw [fromMontgomery, redc_eq_mod odd bound value.modEq, uVal_ofNat_mod _ nonzero]

/-- Both loops raise the number that the base stands for to the power (46_modular.md R269). -/
theorem uVal_modPowReduced (useM : Bool) (e : Word) (nonzero : uVal m ≠ 0)
    (operand : StandsFor (uVal m) 1 x v) :
    uVal (modPowReduced useM x e m) = v ^ uVal e % uVal m := by
  have unit : StandsFor (uVal m) 1 (engineRemainder oneWord m) 1 := by
    rw [StandsFor, uVal_engineRemainder nonzero, uVal_oneWord]
  rw [modPowReduced]
  split
  next montgomery =>
    obtain ⟨_, odd⟩ := montgomery
    exact uVal_fromMontgomery odd (modPowLoop_stands (montgomeryMul_standsFor odd)
      (toMontgomery_standsFor nonzero unit) (toMontgomery_standsFor nonzero operand))
  next =>
    have power := modPowLoop_stands (e := e) (modMulReduced_standsFor nonzero) unit operand
    rwa [StandsFor, mul_one] at power

end Power

/-- Settles O55: the base stands for the operand before its pre-reduction. -/
theorem modularPowerUnitAgreesWithAndWithoutMontgomery :
    Obligations.ModularPowerUnitAgreesWithAndWithoutMontgomery := by
  intro useM a e m nonzero
  apply uVal_modPowReduced useM e nonzero
  rw [StandsFor, uVal_preReduce nonzero, mul_one, uVal]

end Sys2Proof.Machine
end

section
/-! PROOFS. The family of 47_signed.md: the comparisons by the signed readings, and the wrapper of magnitudes
and signs, which makes each result the pattern of the operation on the signed readings. The product and the
quotient wrap; the remainder always fits. -/

namespace Sys2Proof.Machine

/-! ## Comparisons -/

/-- Settles O33, by the result of each test on the signed readings. -/
theorem signedComparisons : Obligations.SignedComparisons := by
  intro s rd rs1 rs2
  have signed : sVal = BitVec.toInt := funext sVal_eq_toInt
  rw [← signed]
  exact ⟨.of_encodeR2 rfl rfl, exec_binaryOp BitVec.toNat rfl (toNat_boolWord decide_eq_true_iff),
    .of_encodeR2 rfl rfl, exec_binaryOp BitVec.toNat rfl (toNat_boolWord decide_eq_true_iff),
    .of_encodeR2 rfl rfl, exec_binaryOp BitVec.toNat rfl (toNat_boolWord decide_eq_true_iff),
    .of_encodeR2 rfl rfl, exec_binaryOp BitVec.toNat rfl (toNat_boolWord decide_eq_true_iff),
    .of_encodeR2 rfl rfl, exec_binaryOp sVal rfl ((sVal_eq_toInt _).trans toInt_threeWay)⟩

/-! ## Magnitudes and signs (47_signed.md R290) -/

/-- The integer `n` under a sign: what `withSign` is on patterns. -/
def applySign (negative : Bool) (n : Int) : Int := if negative then -n else n

section Wrapper
variable (a b : Word) (p q : Bool) (m n : Int)

theorem neg_pat : neg (pat n) = pat (-n) := by
  apply pat_congr
  have reading := uVal_pat n
  omega

theorem withSign_pat : withSign p (pat n) = pat (applySign p n) := by
  cases p
  · rfl
  · exact neg_pat n

/-- An integer is its absolute value under its sign. -/
theorem eq_applySign_natAbs : n = applySign (decide (n < 0)) n.natAbs := by
  simp only [applySign, decide_eq_true_eq]
  split <;> omega

/-- The signed reading is the magnitude under the sign bit. -/
theorem toInt_eq_applySign : a.toInt = applySign (isNeg a) (uVal (mag a)) := by
  have sign : isNeg a = decide (a.toInt < 0) := by
    rw [Bool.eq_iff_iff, isNeg_iff_toInt, decide_eq_true_iff]
  rw [sign, uVal_mag, sVal_eq_toInt, ← eq_applySign_natAbs]

theorem applySign_mul : applySign p m * applySign q n = applySign (p ^^ q) (m * n) := by
  cases p <;> cases q <;> simp [applySign]

theorem applySign_tdiv : (applySign p m).tdiv (applySign q n) = applySign (p ^^ q) (m.tdiv n) := by
  cases p <;> cases q <;> simp [applySign]

/-- A truncated remainder has the sign of the dividend. -/
theorem applySign_tmod : (applySign p m).tmod (applySign q n) = applySign p (m.tmod n) := by
  cases p <;> cases q <;> simp [applySign]

/-- The signed product, by `pat_128(s(a) * s(b))` (47_signed.md R300). -/
theorem smulWord_eq : smulWord a b = pat (a.toInt * b.toInt) := by
  rw [smulWord, mulWord, withSign_pat, Nat.cast_mul, ← applySign_mul, ← toInt_eq_applySign,
    ← toInt_eq_applySign]

/-- The signed quotient, by `pat_128(tdiv(s(a), s(b)))` (47_signed.md R301). -/
theorem sdivWord_eq : sdivWord a b = pat (a.toInt.tdiv b.toInt) := by
  rw [sdivWord, udivWord, withSign_pat, Int.ofNat_tdiv, ← applySign_tdiv, ← toInt_eq_applySign,
    ← toInt_eq_applySign]

/-- The signed remainder, by `pat_128(tmod(s(a), s(b)))` (47_signed.md R302). -/
theorem sremWord_eq : sremWord a b = pat (a.toInt.tmod b.toInt) := by
  rw [sremWord, uremWord, withSign_pat, Int.ofNat_tmod, ← applySign_tmod _ (isNeg b),
    ← toInt_eq_applySign, ← toInt_eq_applySign]

theorem smulWord_eq_mulWord : smulWord a b = mulWord a b := by
  rw [smulWord_eq, mulWord, Nat.cast_mul]
  exact pat_congr ((uVal_modEq_toInt a).mul (uVal_modEq_toInt b)).symm

end Wrapper

/-! ## The product -/

/-- The exclusive or of two signs negates when they differ. -/
theorem applySign_xor (p q : Prop) [Decidable p] [Decidable q] (n : Int) :
    applySign (decide p ^^ decide q) n = if (p ↔ q) then n else -n := by
  by_cases left : p <;> by_cases right : q <;> simp [applySign, left, right]

/-- A product by the magnitudes, negated when the signs differ. -/
theorem mul_eq_ite_natAbs (m n : Int) :
    m * n = if (m < 0 ↔ n < 0) then (m.natAbs * n.natAbs : Int) else -(m.natAbs * n.natAbs : Int) := by
  rw [← applySign_xor, ← applySign_mul, ← eq_applySign_natAbs, ← eq_applySign_natAbs]

/-- Settles O39: the product of the magnitudes under the sign is the signed product. -/
theorem signedProduct : Obligations.SignedProduct := by
  intro s rd rs1 rs2
  obtain ⟨product, frame⟩ := binaryOp_spec smulWord rd rs1 rs2 s
  obtain ⟨unsigned, -⟩ := binaryOp_spec mulWord rd rs1 rs2 s
  have same := smulWord_eq_mulWord (s.reg rs1) (s.reg rs2)
  refine ⟨.of_encodeR2 rfl rfl, _, _, rfl, rfl, ?_, ?_, ?_, frame⟩
  · rw [product, same, toInt_mulWord]
  · rw [product, smulWord_eq, ← mul_eq_ite_natAbs]
    exact uVal_pat _
  · rw [product, unsigned, same]

/-! ## Quotient and remainder -/

section Division
variable (a : Word) {b : Word}

theorem toInt_ne_zero (nonzero : b.toNat ≠ 0) : b.toInt ≠ 0 := by
  rw [← sVal_eq_toInt]
  have congruent := sVal_emod b
  rw [uVal] at congruent
  omega

theorem natAbs_toInt_le : a.toInt.natAbs ≤ 2 ^ 127 := by
  have lower := sVal_lower a
  have upper := sVal_upper a
  rw [sVal_eq_toInt] at lower upper
  omega

theorem toInt_sdivWord : (sdivWord a b).toInt = Int.bmod (a.toInt.tdiv b.toInt) (2 ^ 128) := by
  rw [sdivWord_eq, pat, BitVec.toInt_ofInt]

/-- A remainder is smaller than its divisor in magnitude, so no signed remainder wraps. -/
theorem toInt_sremWord (nonzero : b.toNat ≠ 0) : (sremWord a b).toInt = a.toInt.tmod b.toInt := by
  have magnitude := Int.natAbs_tmod a.toInt b.toInt
  have reduced := Nat.mod_lt a.toInt.natAbs (Int.natAbs_pos.2 (toInt_ne_zero nonzero))
  have divisor := natAbs_toInt_le b
  rw [sremWord_eq, pat, BitVec.toInt_ofInt]
  apply Int.bmod_eq_of_le_mul_two <;> omega

/-- The only signed quotient that does not fit is that of `MinValue` by `MinusOne` (47_signed.md R305). -/
theorem bmod_tdiv_eq (nonzero : b.toNat ≠ 0) (fits : ¬ (a.toInt = -2 ^ 127 ∧ b.toInt = -1)) :
    Int.bmod (a.toInt.tdiv b.toInt) (2 ^ 128) = a.toInt.tdiv b.toInt := by
  have dividend := natAbs_toInt_le a
  have divisor : b.toInt = 1 ∨ b.toInt = -1 ∨ 2 ≤ b.toInt.natAbs := by
    have := toInt_ne_zero nonzero
    omega
  obtain one | minusOne | large := divisor
  · rw [one, Int.tdiv_one, BitVec.toInt_bmod_cancel]
  · have upper := sVal_upper a
    rw [sVal_eq_toInt] at upper
    rw [minusOne, Int.tdiv_neg, Int.tdiv_one]
    apply Int.bmod_eq_of_le_mul_two <;> omega
  · have magnitude : (a.toInt.tdiv b.toInt).natAbs = a.toInt.natAbs / b.toInt.natAbs :=
      Int.natAbs_tdiv ..
    have halved := Nat.div_le_div_left (a := a.toInt.natAbs) large two_pos
    apply Int.bmod_eq_of_le_mul_two <;> omega

/-- A truncated remainder that is not zero has the sign of the dividend. -/
theorem tmod_eq_zero_or_neg_iff (m n : Int) : m.tmod n = 0 ∨ (m.tmod n < 0 ↔ m < 0) := by
  rcases le_or_gt 0 m with nonneg | negative
  · have := Int.tmod_nonneg n nonneg
    omega
  · have := Int.tmod_nonneg n (Int.neg_nonneg.2 negative.le)
    rw [Int.neg_tmod] at this
    omega

end Division

/-- Settles O45, by the test of the divisor and the signed reading of each result. -/
theorem signedQuotientAndRemainder : Obligations.SignedQuotientAndRemainder := by
  intro s rd rs1 rs2
  refine ⟨.of_encodeR2 rfl rfl, fun nonzero => ?_, exec_of_divisor_eq_zero rfl,
    .of_encodeR2 rfl rfl, fun nonzero => ?_, exec_of_divisor_eq_zero rfl⟩
  · exact exec_binaryOp BitVec.toInt (exec_of_divisor_ne_zero rfl nonzero) (toInt_sdivWord _)
  · exact exec_binaryOp BitVec.toInt (exec_of_divisor_ne_zero rfl nonzero) (toInt_sremWord _ nonzero)

section Pair
variable {rd rd2 rs1 rs2 : Reg} {s : State}

/-- `S.DIVREM` with different destinations is a command that tests its divisor. -/
theorem exec_sDivRem_of_ne (distinct : rd ≠ rd2) :
    exec (.sDivRem rd rd2 rs1 rs2) s = .next (if isZero (s.reg rs2) then
      s.raise .divideByZero (encode (.sDivRem rd rd2 rs1 rs2))
      else pairOp sdivWord sremWord rd rd2 rs1 rs2 s) := by
  rw [exec, execSDivRem, if_neg distinct]

theorem exec_sDivRem_of_eq (same : rd = rd2) : exec (.sDivRem rd rd2 rs1 rs2) s =
    .next (s.raise .illegalCommand (encode (.sDivRem rd rd2 rs1 rs2))) := by
  rw [exec, execSDivRem, if_pos same]

end Pair

/-- Settles O46: the pair is the truncated quotient and remainder, so the division law of the integers
holds of it, and modulo `2^128` it holds of the wrapped quotient too. -/
theorem signedDivRemPair : Obligations.SignedDivRemPair := by
  intro s rd rd2 rs1 rs2
  refine ⟨fun distinct => .of_encodeR2D (decide_eq_true distinct) rfl, fun distinct nonzero => ?_,
    fun distinct => exec_of_divisor_eq_zero (exec_sDivRem_of_ne distinct),
    fun same => ⟨_, exec_sDivRem_of_eq same, s.raise_latches ..⟩⟩
  have run := exec_of_divisor_ne_zero (exec_sDivRem_of_ne (rs1 := rs1) distinct) nonzero
  obtain ⟨quotient, remainder, frame⟩ := pairOp_spec sdivWord sremWord rd rd2 rs1 rs2 s distinct
  replace quotient := (congrArg BitVec.toInt quotient).trans (toInt_sdivWord _)
  replace remainder := (congrArg BitVec.toInt remainder).trans (toInt_sremWord _ nonzero)
  refine ⟨_, run, quotient, remainder, ?_, fun fits => ?_, ?_, frame⟩
  · rw [quotient, remainder, ← Int.bmod_add_bmod, Int.bmod_mul_bmod, Int.bmod_add_bmod,
      Int.tdiv_mul_add_tmod, BitVec.toInt_bmod_cancel]
  · rw [quotient, remainder, bmod_tdiv_eq _ nonzero fits, Int.tdiv_mul_add_tmod]
  · rw [remainder]
    exact tmod_eq_zero_or_neg_iff ..

/-! ## The magnitude -/

/-- Settles O47: the magnitude pattern is the absolute value of the signed reading. -/
theorem absoluteValue : Obligations.AbsoluteValue := by
  intro s rd rs1
  refine ⟨.of_encodeR1 rfl rfl, exec_unaryOp BitVec.toNat rfl ?_⟩
  rw [← sVal_eq_toInt]
  exact uVal_mag _

end Sys2Proof.Machine
end

section
/-! PROOFS. The family of 48_roots.md: what a floor root and a ceiling root are, for any exponent. The bits of
the commands, the one-unit correction, Newton's iteration and the two loops of the cube-root unit each end
at the floor root, and one exact power turns a floor root into the ceiling root. -/

namespace Sys2Proof.Machine

/-! ## Floor and ceiling roots -/

/-- `r` is the floor root of `n` to the exponent `p` (48_roots.md R330, R332). -/
def IsFloorRoot (p n r : Nat) : Prop := r ^ p ≤ n ∧ n < (r + 1) ^ p

/-- `r` is the ceiling root of `n` to the exponent `p` (48_roots.md R331, R333). -/
def IsCeilRoot (p n r : Nat) : Prop :=
  (n = 0 → r = 0) ∧ (0 < n → ∃ k, r = k + 1 ∧ k ^ p < n ∧ n ≤ (k + 1) ^ p)

section Root
variable {p n f r : Nat}

theorem isFloorRoot_sqrt (n : Nat) : IsFloorRoot 2 n (Nat.sqrt n) :=
  ⟨Nat.sqrt_le' n, Nat.lt_succ_sqrt' n⟩

theorem IsFloorRoot.le (h : IsFloorRoot p n r) (hp : p ≠ 0) : r ≤ n :=
  (Nat.le_self_pow hp r).trans h.1

theorem IsCeilRoot.le (h : IsCeilRoot p n r) (hp : p ≠ 0) : r ≤ n := by
  obtain ⟨ofZero, ofPos⟩ := h
  rcases Nat.eq_zero_or_pos n with zero | pos
  · exact (ofZero zero).trans_le n.zero_le
  · obtain ⟨k, rfl, below, -⟩ := ofPos pos
    exact (Nat.le_self_pow hp k).trans_lt below

/-- The ceiling root is the floor root, or one more when the power is not exact. -/
theorem IsFloorRoot.isCeilRoot (h : IsFloorRoot p n f) (hp : p ≠ 0) :
    IsCeilRoot p n (if f ^ p = n then f else f + 1) := by
  obtain ⟨lower, upper⟩ := h
  split
  next exactPower =>
    subst exactPower
    refine ⟨(pow_eq_zero_iff hp).1, fun pos => ?_⟩
    obtain ⟨k, rfl⟩ := Nat.exists_eq_add_one.2 ((pow_pos_iff hp).1 pos)
    exact ⟨k, rfl, Nat.pow_lt_pow_left k.lt_succ_self hp, le_rfl⟩
  next inexact =>
    have below : f ^ p < n := lt_of_le_of_ne lower inexact
    exact ⟨fun zero => absurd below (by omega), fun _ => ⟨f, rfl, below, upper.le⟩⟩

/-- One exact square decides the ceiling root (48_roots.md R337). -/
theorem IsFloorRoot.isCeilRoot_ceilFromFloorSqrt (h : IsFloorRoot 2 n f) :
    IsCeilRoot 2 n (ceilFromFloorSqrt n f) :=
  h.isCeilRoot two_ne_zero

/-- One exact cube decides the ceiling cube root (48_roots.md R338). -/
theorem IsFloorRoot.isCeilRoot_ceilFromFloorCbrt (h : IsFloorRoot 3 n f) :
    IsCeilRoot 3 n (ceilFromFloorCbrt n f) :=
  h.isCeilRoot three_ne_zero

end Root

/-! ## The commands -/

/-- The root between `r` and `r + 2 ^ k` is found in `k` bits. -/
theorem isFloorRoot_floorRootBits {p n : Nat} (k r : Nat) (lower : r ^ p ≤ n)
    (upper : n < (r + 2 ^ k) ^ p) : IsFloorRoot p n (floorRootBits p n k r) := by
  induction k generalizing r with
  | zero => exact ⟨lower, upper⟩
  | succ k ih =>
    rw [floorRootBits]
    split
    next bitSet =>
      apply ih _ bitSet
      rwa [add_assoc, ← two_mul, ← pow_succ']
    next bitClear => exact ih r lower (not_le.1 bitClear)

section Commands
variable {n : Nat} (h : n < 2 ^ 128)
include h

theorem isFloorRoot_floorSqrt : IsFloorRoot 2 n (floorSqrt n) := by
  rw [floorSqrt]
  apply isFloorRoot_floorRootBits
  · simp
  · exact h.trans_le (by norm_num)

theorem isFloorRoot_floorCbrt : IsFloorRoot 3 n (floorCbrt n) := by
  rw [floorCbrt]
  apply isFloorRoot_floorRootBits
  · simp
  · exact h.trans_le (by norm_num)

theorem isCeilRoot_ceilSqrt : IsCeilRoot 2 n (ceilSqrt n) := by
  rw [ceilSqrt, add_ite, add_zero]
  exact (isFloorRoot_floorSqrt h).isCeilRoot two_ne_zero

theorem isCeilRoot_ceilCbrt : IsCeilRoot 3 n (ceilCbrt n) := by
  rw [ceilCbrt, add_ite, add_zero]
  exact (isFloorRoot_floorCbrt h).isCeilRoot three_ne_zero

end Commands

section RootCommand
variable {i : Instr} {rd rs1 r : Reg} {s t : State} {root : Nat → Nat} {p : Nat}

/-- A command that tests the sign of its operand runs when the operand is not negative. -/
theorem exec_of_domain_nonneg
    (run : exec i s = .next (if isNeg (s.reg r) then s.raise .domainError (encode i) else t))
    (nonneg : 0 ≤ (s.reg r).toInt) : exec i s = .next t := by
  rw [run, if_neg (mt (isNeg_iff_toInt _).1 (not_lt.2 nonneg))]

/-- A command that tests the sign of its operand enters the fault when the operand is negative. -/
theorem exec_of_domain_neg
    (run : exec i s = .next (if isNeg (s.reg r) then s.raise .domainError (encode i) else t))
    (negative : (s.reg r).toInt < 0) :
    ∃ t, exec i s = .next t ∧ Latches .domainError (encode i) s t := by
  rw [if_pos ((isNeg_iff_toInt _).2 negative)] at run
  exact ⟨_, run, s.raise_latches ..⟩

/-- A root that is no larger than its operand fits in 128 bits. -/
theorem uVal_rootWord {a : Word} (small : root (uVal a) ≤ uVal a) :
    uVal (rootWord root a) = root (uVal a) :=
  uVal_pat_of_lt (small.trans_lt (uVal_lt a))

variable (run : exec i s = .next (unaryOp (rootWord root) rd rs1 s)) (hp : p ≠ 0)
include run hp

theorem exec_floorRoot (floor : IsFloorRoot p (uVal (s.reg rs1)) (root (uVal (s.reg rs1)))) :
    ∃ t, exec i s = .next t ∧ (t.reg rd).toNat ^ p ≤ (s.reg rs1).toNat ∧
      (s.reg rs1).toNat < ((t.reg rd).toNat + 1) ^ p ∧ SameOutside [rd] s t := by
  obtain ⟨t, next, value, frame⟩ := exec_unaryOp uVal run (uVal_rootWord (floor.le hp))
  rw [← value] at floor
  exact ⟨t, next, floor.1, floor.2, frame⟩

theorem exec_ceilRoot (ceil : IsCeilRoot p (uVal (s.reg rs1)) (root (uVal (s.reg rs1)))) :
    ∃ t, exec i s = .next t ∧ ((s.reg rs1).toNat = 0 → (t.reg rd).toNat = 0) ∧
      (0 < (s.reg rs1).toNat → ∃ k, (t.reg rd).toNat = k + 1 ∧ k ^ p < (s.reg rs1).toNat ∧
        (s.reg rs1).toNat ≤ (k + 1) ^ p) ∧ SameOutside [rd] s t := by
  obtain ⟨t, next, value, frame⟩ := exec_unaryOp uVal run (uVal_rootWord (ceil.le hp))
  rw [← value] at ceil
  exact ⟨t, next, ceil.1, ceil.2, frame⟩

end RootCommand

/-- Settles O57, by the root that each command writes. -/
theorem unsignedRoots : Obligations.UnsignedRoots := by
  intro s rd rs1
  have operand := uVal_lt (s.reg rs1)
  exact ⟨.of_encodeR1 rfl rfl, exec_floorRoot rfl two_ne_zero (isFloorRoot_floorSqrt operand),
    .of_encodeR1 rfl rfl, exec_ceilRoot rfl two_ne_zero (isCeilRoot_ceilSqrt operand),
    .of_encodeR1 rfl rfl, exec_floorRoot rfl three_ne_zero (isFloorRoot_floorCbrt operand),
    .of_encodeR1 rfl rfl, exec_ceilRoot rfl three_ne_zero (isCeilRoot_ceilCbrt operand)⟩

/-- Settles O58, by the test of the sign and the root that each command writes. -/
theorem signedRoots : Obligations.SignedRoots := by
  intro s rd rs1
  have operand := uVal_lt (s.reg rs1)
  refine ⟨.of_encodeR1 rfl rfl, fun nonneg => ?_, exec_of_domain_neg rfl,
    .of_encodeR1 rfl rfl, fun nonneg => ?_, exec_of_domain_neg rfl,
    .of_encodeR1 rfl rfl, fun nonneg => ?_, exec_of_domain_neg rfl,
    .of_encodeR1 rfl rfl, fun nonneg => ?_, exec_of_domain_neg rfl⟩
  · exact exec_floorRoot (exec_of_domain_nonneg rfl nonneg) two_ne_zero (isFloorRoot_floorSqrt operand)
  · exact exec_ceilRoot (exec_of_domain_nonneg rfl nonneg) two_ne_zero (isCeilRoot_ceilSqrt operand)
  · exact exec_floorRoot (exec_of_domain_nonneg rfl nonneg) three_ne_zero (isFloorRoot_floorCbrt operand)
  · exact exec_ceilRoot (exec_of_domain_nonneg rfl nonneg) three_ne_zero (isCeilRoot_ceilCbrt operand)

/-! ## The square-root unit -/

section SquareRoot
variable {a s seed : Nat}

/-- One exact square on each side of the seed decides which of the three candidates is the root
(48_roots.md R335). -/
theorem sqrtCorrect_eq_sqrt (high : seed ≤ Nat.sqrt a + 1) (low : Nat.sqrt a ≤ seed + 1) :
    sqrtCorrect a seed = Nat.sqrt a := by
  simp only [sqrtCorrect, gt_iff_lt, ← Nat.sqrt_lt', ← Nat.le_sqrt']
  split_ifs <;> omega

/-- A Newton step does not fall below the root: the product of `a / s + 1` and `s` exceeds `a`, so their
mean exceeds the root of `a` (48_roots.md R336). -/
theorem sqrt_le_newtonStep (pos : 0 < s) : Nat.sqrt a ≤ (a / s + s) / 2 := by
  rw [Nat.le_div_iff_mul_le two_pos]
  by_contra! short
  have mean := four_mul_le_sq_add (a / s + 1) s
  have sum : (a / s + 1 + s) ^ 2 ≤ (Nat.sqrt a * 2) ^ 2 := Nat.pow_le_pow_left (by omega) 2
  have product : a < (a / s + 1) * s := by
    rw [← Nat.div_lt_iff_lt_mul pos]
    exact Nat.lt_succ_self _
  have root := Nat.sqrt_le' a
  rw [mul_pow] at sum
  linarith

/-- A Newton step that does not descend starts at the root or below. -/
theorem le_sqrt_of_le_newtonStep (stop : s ≤ (a / s + s) / 2) : s ≤ Nat.sqrt a := by
  rw [Nat.le_sqrt]
  calc s * s ≤ a / s * s := Nat.mul_le_mul_right s (by omega)
    _ ≤ a := Nat.div_mul_le_self a s

/-- From the root or above, the iterates descend to the root. -/
theorem newtonSqrt_eq_sqrt (fuel : Nat) (enough : s ≤ fuel) (above : Nat.sqrt a ≤ s) :
    newtonSqrt a fuel s = Nat.sqrt a := by
  induction fuel generalizing s with
  | zero => exact (above.antisymm (enough.trans (Nat.zero_le _))).symm
  | succ fuel ih =>
    rw [newtonSqrt]
    split
    next stop => exact (le_sqrt_of_le_newtonStep stop).antisymm above
    next descends =>
      have pos : 0 < s := (Nat.zero_le _).trans_lt (not_le.1 descends)
      exact ih (by omega) (sqrt_le_newtonStep pos)

end SquareRoot

/-- Settles O59: each path ends at the floor root, and one exact square turns that into the ceiling root. -/
theorem squareRootUnitAgrees : Obligations.SquareRootUnitAgrees := fun a seed =>
  ⟨sqrtCorrect_eq_sqrt, fun _ above => newtonSqrt_eq_sqrt seed le_rfl above,
    (isFloorRoot_sqrt a).isCeilRoot_ceilFromFloorSqrt⟩

/-! ## The cube-root unit (48_roots.md R338) -/

section CubeRoot
variable {a : Nat}

/-- The downward loop ends at or below the root. -/
theorem cbrtDown_pow_le (a s : Nat) : cbrtDown a s ^ 3 ≤ a := by
  induction s with
  | zero => exact a.zero_le
  | succ s ih =>
    rw [cbrtDown]
    split
    next => exact ih
    next fits => exact not_lt.1 fits

/-- From `s` at or below the root, the upward loop finds the root if that is at most `fuel` steps away. -/
theorem isFloorRoot_cbrtUp (fuel s : Nat) (lower : s ^ 3 ≤ a) (upper : a < (s + fuel + 1) ^ 3) :
    IsFloorRoot 3 a (cbrtUp a fuel s (s ^ 3)) := by
  induction fuel generalizing s with
  | zero => exact ⟨lower, upper⟩
  | succ fuel ih =>
    have nextCube : (s + 1) ^ 3 = s ^ 3 + 3 * s * (s + 1) + 1 := by ring
    rw [cbrtUp]
    split
    next climbs =>
      rw [← nextCube]
      apply ih
      · omega
      · rwa [add_right_comm s 1 fuel]
    next stops => exact ⟨lower, by omega⟩

/-- The fuel of the unit is enough for every 128-bit number. -/
theorem isFloorRoot_cbrtUnit (seed : Nat) (h : a < 2 ^ 128) : IsFloorRoot 3 a (cbrtUnit a seed) := by
  apply isFloorRoot_cbrtUp _ _ (cbrtDown_pow_le a seed)
  calc a < (2 ^ 43) ^ 3 := h.trans_le (by norm_num)
    _ ≤ (cbrtDown a seed + 2 ^ 43 + 1) ^ 3 := Nat.pow_le_pow_left (by omega) 3

end CubeRoot

/-- Settles O60: the loops end at the floor root, and one exact cube turns that into the ceiling root. -/
theorem cubeRootUnitAgrees : Obligations.CubeRootUnitAgrees := by
  intro a seed h
  have floor := isFloorRoot_cbrtUnit seed h
  exact ⟨floor.1, floor.2, floor.isCeilRoot_ceilFromFloorCbrt⟩

end Sys2Proof.Machine
end

section
/-! PROOFS. The family of 60_exceptions.md: what a latched fault holds back and what it does not, and which
command enters which fault, from the effects of a command and from its test of an operand. -/

namespace Sys2Proof.Machine

/-! ## While a fault is latched -/

/-- Settles O7: only the `CMD` write looks at the latch. -/
theorem latchedFaultDropsCommandsOnly : Obligations.LatchedFaultDropsCommandsOnly := by
  intro s a d rest latched
  obtain ⟨statusRead, statusWrite⟩ := statusReadsWholeAndClearsOnWrite s d rest
  refine ⟨fun write => step_cmd_latched write latched, fun write limb => ?_, fun read limb => ?_,
    statusRead, statusWrite⟩
  · obtain ⟨t, next, even, odd, frame⟩ := limbWriteReplacesOneLimb s a d rest limb write
    refine ⟨t, next, ?_⟩
    rcases Nat.mod_two_eq_zero_or_one a.toNat with parity | parity
    · obtain ⟨written, kept⟩ := even parity
      simpa [parity] using ⟨written, kept, frame⟩
    · obtain ⟨written, kept⟩ := odd parity
      simpa [parity] using ⟨written, kept, frame⟩
  · rw [step_read read, s.portData_limb limb, State.readLimb, limbBit_eq, limbReg_eq]
    simp only [decide_eq_true_eq, ite_apply]

/-! ## Every step answers -/

/-- Settles O17: every transaction has an effect, and every command has one. -/
theorem everyStepAnswersANextState : Obligations.EveryStepAnswersANextState := by
  refine fun s => ⟨?_, step_idle⟩
  rcases step_cases s with ⟨-, idle⟩ | ⟨rest, -, reset⟩ | ⟨a, rest, -, read⟩ | ⟨a, d, rest, -, write⟩
  · exact ⟨_, idle⟩
  · exact ⟨_, reset⟩
  · exact ⟨_, read⟩
  · rcases write with ⟨-, limb⟩ | ⟨-, -, dropped⟩ | ⟨-, -, i, -, runs⟩ | ⟨-, -, -, rejected⟩
      | ⟨-, status⟩ | ⟨-, reserved⟩
    · exact ⟨_, limb⟩
    · exact ⟨_, dropped⟩
    · obtain ⟨t, next, -⟩ := exec_effect i { s with pending := rest }
      exact ⟨t, runs.trans next⟩
    · exact ⟨_, rejected⟩
    · exact ⟨_, status⟩
    · exact ⟨_, reserved⟩

/-! ## Which command enters which fault -/

/-- Settles O18: each effect that latches a fault contradicts a hypothesis. -/
theorem noFaultOutsideTheListedConditions : Obligations.NoFaultOutsideTheListedConditions := by
  intro i s wf nonzero nonneg
  obtain ⟨t, next, effect⟩ := exec_effect i s
  cases effect with
  | writes frame =>
    obtain ⟨-, code, word, -⟩ := frame
    exact ⟨t, next, code, word⟩
  | illegal malformed _ => exact absurd wf (by simp [malformed])
  | divideByZero r _ divisor zero _ => exact absurd zero (nonzero r divisor)
  | domainError r _ domain negative _ => exact absurd negative (not_lt.2 (nonneg r domain))

section OperandTest
variable {i : Instr} {r : Reg} (s : State)

/-- A well-formed command with a divisor or a modulus tests it before anything else. -/
theorem exec_tests_divisor (wf : wellFormed i = true) (divisor : divisorReg i = some r) :
    ∃ t, exec i s = .next (if isZero (s.reg r) then s.raise .divideByZero (encode i) else t) := by
  cases i with
  | uDiv | uRem | sDiv | sRem | uModAdd | uModSub | uModMul | uModPow =>
    obtain rfl := Option.some.inj divisor
    exact ⟨_, rfl⟩
  | uDivRem =>
    obtain rfl := Option.some.inj divisor
    exact ⟨_, exec_uDivRem_of_ne (of_decide_eq_true wf)⟩
  | sDivRem =>
    obtain rfl := Option.some.inj divisor
    exact ⟨_, exec_sDivRem_of_ne (of_decide_eq_true wf)⟩
  | _ => cases divisor

/-- A command with a root operand or an exponent that must not be negative tests it before anything
else. -/
theorem exec_tests_domain (domain : domainReg i = some r) :
    ∃ t, exec i s = .next (if isNeg (s.reg r) then s.raise .domainError (encode i) else t) := by
  cases i with
  | sFsqrt | sCsqrt | sFcbrt | sCcbrt | pow =>
    obtain rfl := Option.some.inj domain
    exact ⟨_, rfl⟩
  | _ => cases domain

end OperandTest

/-- Settles O19, by the test that each of the fifteen commands makes of its operand. -/
theorem operandFaultsLatchTheirCode : Obligations.OperandFaultsLatchTheirCode := by
  intro i r s wf
  refine ⟨fun divisor zero => ?_, fun domain negative => ?_⟩
  · obtain ⟨_, run⟩ := exec_tests_divisor s wf divisor
    obtain ⟨t, next, latch⟩ := exec_of_divisor_eq_zero run zero
    exact ⟨t, next, latch.1, latch⟩
  · obtain ⟨_, run⟩ := exec_tests_domain s domain
    obtain ⟨t, next, latch⟩ := exec_of_domain_neg run negative
    exact ⟨t, next, latch.1, latch⟩

end Sys2Proof.Machine
end

section
/-! PROOFS. The family of 70_reset_and_hazards.md: what `STATUS` and the fault output show with the latch
clear, the state after a `Reset` and the state right after reset. -/

namespace Sys2Proof.Machine

section ClearLatch
variable {s : State}

theorem State.status_eq_zero (code : s.fcode = 0) (word : s.fcmd = 0) : s.status = 0 := by
  rw [State.status, code, word]
  rfl

theorem State.faultOutput_eq_false (code : s.fcode = 0) : s.faultOutput = false :=
  s.latched_eq_false.2 code

end ClearLatch

/-- Settles O13: a `Reset` leaves the latch clear, so the next command is not dropped. -/
theorem resetDrawsRegistersAndClearsTheLatch : Obligations.ResetDrawsRegistersAndClearsTheLatch := by
  intro s rest reset
  exact ⟨_, step_reset reset, State.portReset_reg _, State.portReset_fcode _, State.portReset_fcmd _,
    State.status_eq_zero rfl rfl, State.faultOutput_eq_false rfl, State.portReset_pending _,
    State.portReset_returned _, State.portReset_resets _,
    fun i more wf next => step_cmd_encode next rfl wf⟩

/-- Settles O14, from the fields of the state and its clear latch. -/
theorem resetStateAsTheSpecSays : Obligations.ResetStateAsTheSpecSays :=
  ⟨rfl, rfl, State.status_eq_zero rfl rfl, State.faultOutput_eq_false rfl, State.reset_reg, rfl, rfl⟩

/-- Settles O16: a clear latch satisfies the invariant. -/
theorem resetStateHasTheLatchInvariant : Obligations.ResetStateHasTheLatchInvariant :=
  .of_clear rfl rfl

end Sys2Proof.Machine
end
